-- ==== Sys2Proof/Word.lean ====
section
/-! DEFINITION. The machine's word (spec/00_scope.md R5: `WORD` = 4 bits, `ADDRW` = 4 bits). -/

namespace Sys2Proof

/-- A nibble: a 4-bit unsigned value, an integer in 0..15 (00_scope.md, 5.1). The accumulator, the program
counter, every address and every memory word is one (R5, R21, R23, R27, R28). -/
abbrev Nibble := BitVec 4

/-- A token of the assembler's source text: a run of characters (30_encoding.md R95). -/
abbrev Token := List Char

/-- A label name: any non-empty run of non-whitespace characters (30_encoding.md R98). -/
abbrev LabelName := List Char

end Sys2Proof
end

