-- ==== Sys2Proof/Config.lean ====
section
/-! DEFINITION. The implementation parameters of spec/00_scope.md R5. All sizes are fixed by the spec; the one open
parameter is the run budget. -/

namespace Sys2Proof

/-- `DEPTH`: the words of each of the two memories (00_scope.md R5). -/
def Config.depth : Nat := 16

/-- `MAXPROG`: the greatest number of instructions in a program (00_scope.md R5; 30_encoding.md R108). -/
def Config.maxProg : Nat := 16

/-- `RUN_BUDGET`, the open parameter (00_scope.md R5; 92_eei_decisions.md D17): `none`, or the greatest number of
cycles one Run may execute. It has no body: nothing can be proved of its value. Log 11. -/
opaque Config.runBudget : Option Nat

end Sys2Proof
end

