-- ==== Sys2Proof/Syntax.lean ====
section
/-! DEFINITION. The instructions of spec/opcode_table.json, and the assembler's data (spec/30_encoding.md R92):
kinds, base mnemonics, operands and instruction nodes. -/

namespace Sys2Proof

/-- One constructor for each row of the opcode table (30_encoding.md R82). `d` is the data nibble, fetched with
every opcode (R81, R141). -/
inductive Instr where
  /-- `0000dddd`, `d` ignored (40_cycle.md R146). -/
  | nop (d : Nibble)
  /-- `0001dddd`, `d` an immediate (41_load_store.md R160). -/
  | lda (d : Nibble)
  /-- `0010dddd`, `d` a data slot (41_load_store.md R161). -/
  | ldaR (d : Nibble)
  /-- `0011dddd`, `d` a data slot (41_load_store.md R162). -/
  | staR (d : Nibble)
  /-- `0100dddd`, `d` an immediate (42_arithmetic.md R170). -/
  | add (d : Nibble)
  /-- `0101dddd`, `d` a data slot (42_arithmetic.md R171). -/
  | addR (d : Nibble)
  /-- `0110dddd`, `d` an immediate (42_arithmetic.md R172). -/
  | sub (d : Nibble)
  /-- `0111dddd`, `d` a data slot (42_arithmetic.md R173). -/
  | subR (d : Nibble)
  /-- `1000dddd`, `d` an absolute address (43_control_transfer.md R190). -/
  | jmp (d : Nibble)
  /-- `1001dddd`, `d` an unsigned offset (43_control_transfer.md R191). -/
  | brz (d : Nibble)
  /-- `1010dddd`, `d` an unsigned offset (43_control_transfer.md R192). -/
  | brc (d : Nibble)
  /-- `1011dddd`, `d` an unsigned offset (43_control_transfer.md R193). -/
  | brn (d : Nibble)
  /-- `11xxdddd`, an unassigned opcode `op` in 0xC..0xF, `d` ignored (40_cycle.md R147). The opcode is kept: the
  logged event records it. -/
  | unk (op d : Nibble)
  deriving DecidableEq, Repr

/-- The 12 instruction kinds of the closed opcode table (30_encoding.md R82). -/
inductive Kind where
  | nop | lda | ldaR | staR | add | addR | sub | subR | jmp | brz | brc | brn
  deriving DecidableEq, Repr

/-- The nine base mnemonics of source text (30_encoding.md R99). -/
inductive Mnemonic where
  | nop | lda | sta | add | sub | jmp | brz | brc | brn
  deriving DecidableEq, Repr

/-- The operand of an instruction node (30_encoding.md R92); numbers are not yet masked. -/
inductive Operand where
  | none
  | immediate (n : Nat)
  | registerRef (n : Nat)
  | labelRef (name : LabelName)
  | resolvedAddress (a : Nat)
  deriving DecidableEq, Repr

/-- An instruction node, the assembler's record of one instruction (30_encoding.md R92). -/
structure Node where
  base : Mnemonic
  kind : Kind
  operand : Operand
  label : Option LabelName
  deriving DecidableEq, Repr

end Sys2Proof
end

