-- ==== Sys2Proof/WellFormed.lean ====
section
/-! DEFINITION. What well-formed syntax is: machine instructions, instruction nodes, and programs that Load accepts
(spec/30_encoding.md R86, R92, R127). -/

namespace Sys2Proof

/-- A machine instruction is well formed when an `unk` carries one of the four unassigned opcodes
(30_encoding.md R86). Every other instruction is: all 16 data nibbles are legal for every opcode (R86). -/
def Instr.wellFormed : Instr → Bool
  | .unk op _ => decide (0xC ≤ op.toNat)
  | .nop _ | .lda _ | .ldaR _ | .staR _ | .add _ | .addR _ | .sub _ | .subR _
  | .jmp _ | .brz _ | .brc _ | .brn _ => true

/-- A node that the Memory Encoder may be given: its base mnemonic, kind and operand are one line of the table of
30_encoding.md R101, and a `JMP` is resolved, to an address 0..15 (R92, R107). -/
def Node.loadable (n : Node) : Bool :=
  match n.base, n.kind, n.operand with
  | .nop, .nop, .none => true
  | .lda, .lda, .immediate _ => true
  | .lda, .ldaR, .registerRef _ => true
  | .sta, .staR, .registerRef _ => true
  | .add, .add, .immediate _ => true
  | .add, .addR, .registerRef _ => true
  | .sub, .sub, .immediate _ => true
  | .sub, .subR, .registerRef _ => true
  | .jmp, .jmp, .resolvedAddress a => decide (a < Config.depth)
  | .brz, .brz, .immediate _ => true
  | .brc, .brc, .immediate _ => true
  | .brn, .brn, .immediate _ => true
  | _, _, _ => false

/-- The sequences that Load is defined for: 1 to 16 nodes, none with an unresolved label
(30_encoding.md R120, R127). -/
def programOk (seq : List Node) : Bool :=
  !seq.isEmpty && decide (seq.length ≤ Config.maxProg) && seq.all Node.loadable

/-- A program: a sequence together with the proof that Load is defined for it (30_encoding.md R127). -/
structure Program where
  nodes : List Node
  ok : programOk nodes = true
  deriving DecidableEq

end Sys2Proof
end

