-- ==== Sys2Proof/Decode.lean ====
section
/-! DEFINITION. The decoder and the encoder of machine instructions (spec/30_encoding.md R80 to R87). An instruction
is the pair of an opcode nibble and a data nibble. Decoding is total: the four opcodes with no mapping decode, by
name, to `unk` (R86). -/

namespace Sys2Proof

/-- code → mnemonic of the fixed opcode table; `none` is "no mapping" (30_encoding.md R82, R83;
40_cycle.md R142). -/
def decodeKind (op : Nibble) : Option Kind :=
  match op.toNat with
  | 0x0 => some .nop
  | 0x1 => some .lda
  | 0x2 => some .ldaR
  | 0x3 => some .staR
  | 0x4 => some .add
  | 0x5 => some .addR
  | 0x6 => some .sub
  | 0x7 => some .subR
  | 0x8 => some .jmp
  | 0x9 => some .brz
  | 0xA => some .brc
  | 0xB => some .brn
  | _ => none

/-- The instruction of a kind with data nibble `d`. -/
def instrOf (k : Kind) (d : Nibble) : Instr :=
  match k with
  | .nop => .nop d
  | .lda => .lda d
  | .ldaR => .ldaR d
  | .staR => .staR d
  | .add => .add d
  | .addR => .addR d
  | .sub => .sub d
  | .subR => .subR d
  | .jmp => .jmp d
  | .brz => .brz d
  | .brc => .brc d
  | .brn => .brn d

/-- The decoder. The opcode nibble alone selects the instruction (30_encoding.md R83). -/
def decode (op d : Nibble) : Instr :=
  match decodeKind op with
  | some k => instrOf k d
  | none => .unk op d

/-- mnemonic → code of the fixed opcode table (30_encoding.md R82). -/
def opcode (k : Kind) : Nibble :=
  match k with
  | .nop => 0x0
  | .lda => 0x1
  | .ldaR => 0x2
  | .staR => 0x3
  | .add => 0x4
  | .addR => 0x5
  | .sub => 0x6
  | .subR => 0x7
  | .jmp => 0x8
  | .brz => 0x9
  | .brc => 0xA
  | .brn => 0xB

/-- The encoder: the opcode nibble and the data nibble of an instruction (30_encoding.md R80 to R82, R86). -/
def encode (i : Instr) : Nibble × Nibble :=
  match i with
  | .nop d => (opcode .nop, d)
  | .lda d => (opcode .lda, d)
  | .ldaR d => (opcode .ldaR, d)
  | .staR d => (opcode .staR, d)
  | .add d => (opcode .add, d)
  | .addR d => (opcode .addR, d)
  | .sub d => (opcode .sub, d)
  | .subR d => (opcode .subR, d)
  | .jmp d => (opcode .jmp, d)
  | .brz d => (opcode .brz, d)
  | .brc d => (opcode .brc, d)
  | .brn d => (opcode .brn, d)
  | .unk op d => (op, d)

/-- The 8-bit presentation `op ‖ d`, opcode nibble high (30_encoding.md R81; DESIGN CHOICE of the spec, its decision
D2, log 7). -/
def presentation (w : Nibble × Nibble) : Nat := 16 * w.1.toNat + w.2.toNat

/-- The opcode nibble of an 8-bit presentation: bits 7..4 (30_encoding.md R81). -/
def opNibble (w : Nat) : Nibble := BitVec.ofNat 4 (w / 16)

/-- The data nibble of an 8-bit presentation: bits 3..0 (30_encoding.md R81). -/
def dataNibble (w : Nat) : Nibble := BitVec.ofNat 4 w

/-- What the decoder reads from the `nbits` bits `w` of an opcode table row. Every row has 8 bits, the presentation
`op ‖ d`; other widths are no instruction of this machine (30_encoding.md R80). -/
def decodeTableWord (nbits w : Nat) : Option Instr :=
  if nbits = 8 ∧ w < 256 then some (decode (opNibble w) (dataNibble w)) else none

end Sys2Proof
end

