-- ==== Sys2Proof/Machine/Events.lean ====
section
/-! DEFINITION. The events of the diagnostics sink (spec/60_exceptions.md R241, R242; spec/30_encoding.md R109, R111,
R122). Message text and timestamps are outside the spec's scope (00_scope.md R4). -/

namespace Sys2Proof.Machine

/-- The severity of a log entry (60_exceptions.md R254). -/
inductive Severity where
  | info | warning | error
  deriving DecidableEq, Repr

/-- One entry of the log, with the payload its rule gives it. -/
inductive Event where
  /-- A cycle fetched an unassigned opcode (40_cycle.md R147). -/
  | unknownOpcode (pc0 op : Nibble)
  /-- Run found `PC` outside the program (44_system_run_control.md R215). -/
  | programEnd (pc : Nibble)
  /-- Run's self-loop guard fired (44_system_run_control.md R216). -/
  | selfLoop (pc0 : Nibble)
  /-- Run used up its budget after `n` cycles (44_system_run_control.md R217). -/
  | budgetExceeded (pc : Nibble) (n : Nat)
  /-- A `JMP` on line `k` names a label not yet declared (30_encoding.md R102, R111). -/
  | forwardReference (name : LabelName) (k : Nat)
  /-- 30_encoding.md R96, R97, R98, R99, R101. -/
  | malformedLine (k : Nat)
  /-- 30_encoding.md R103. -/
  | invalidNumber (k : Nat)
  /-- Lines `k1` and `k2` declare the same label (30_encoding.md R106). -/
  | duplicateLabel (name : LabelName) (k1 k2 : Nat)
  /-- 30_encoding.md R108. -/
  | tooManyInstructions (k : Nat)
  /-- 30_encoding.md R107. -/
  | unresolvedLabel (name : LabelName)
  /-- The encoder met an unrecognised mnemonic at position `i` (30_encoding.md R122). -/
  | encoderFallback (i : Nat)
  deriving DecidableEq, Repr

/-- The severities of 60_exceptions.md R241, R242. -/
def Event.severity : Event → Severity
  | .unknownOpcode _ _ => .error
  | .programEnd _ => .info
  | .selfLoop _ => .warning
  | .budgetExceeded _ _ => .warning
  | .forwardReference _ _ => .info
  | .malformedLine _ => .error
  | .invalidNumber _ => .error
  | .duplicateLabel _ _ _ => .error
  | .tooManyInstructions _ => .error
  | .unresolvedLabel _ => .error
  | .encoderFallback _ => .warning

end Sys2Proof.Machine
end

