-- ==== Sys2Proof/Machine/State.lean ====
section
/-! DEFINITION. The state of the machine (spec/10_state.md), its value at engine initialisation, and the reasons a
step can stop. -/

namespace Sys2Proof.Machine

/-- One word of a memory at an address: `Host.Cell`'s form at this hardware's own unit, the 4-bit word
(20_memory.md R53; DESIGN CHOICE, log 4). -/
abbrev Cell := Nat × Nibble

/-- A memory of 16 words of 4 bits (20_memory.md R50): the cells that do not read as `Memory.unlisted`, addresses
strictly rising. -/
abbrev Memory := List Cell

/-- What an address that no cell lists reads as: 0 (10_state.md R33; DESIGN CHOICE of the spec, its decision D3,
log 1). -/
def Memory.unlisted : Nibble := 0

/-- The one canonical form: addresses strictly rising, all of them in 0..15, and no cell that holds what an unlisted
address reads as. -/
abbrev Memory.wf (m : Memory) : Prop :=
  m.Pairwise (fun x y => x.1 < y.1) ∧ ∀ x ∈ m, x.1 < Config.depth ∧ x.2 ≠ Memory.unlisted

/-- The complete state between cycles (10_state.md R20), and the diagnostics log (00_scope.md R1; log 10). -/
structure State where
  /-- `A`, the accumulator (R21). -/
  a : Nibble
  /-- `PC`, the address of the next instruction (R23). -/
  pc : Nibble
  /-- `Z`, the zero flag (R24). -/
  z : Bool
  /-- `N`, the negative flag (R24). -/
  n : Bool
  /-- `C`, the carry flag (R24). -/
  c : Bool
  /-- `IMEM`, the opcode nibbles (R27). -/
  imem : Memory
  /-- `DMEM`, the data nibbles and the data (R28). -/
  dmem : Memory
  /-- `ICOUNT`, 0..16, the length of the loaded program (R29). -/
  icount : Fin 17
  /-- `RUNNING` (R30; 44_system_run_control.md R219). -/
  running : Bool
  /-- `DEBUG` (R30; 44_system_run_control.md R220). -/
  debug : Bool
  /-- The diagnostics sink, oldest entry first (60_exceptions.md R254). -/
  log : List Event
  deriving DecidableEq, Repr

/-- Faults: none exist. "No instruction raises a synchronous exception" (60_exceptions.md R240), so the type has no
constructor and a step that faults cannot be written (log 21; safe). -/
inductive Fault where
  deriving DecidableEq, Repr

/-- Refusals. -/
inductive Refusal where
  /-- Raised by an arm of `exec` whose instruction has no meaning yet; no arm of this model raises it. Safe: a
  refusal proves nothing about the hardware. -/
  | notModelled (mnemonic : String)
  deriving DecidableEq, Repr

/-- The machine at engine initialisation (10_state.md R33; 70_reset_and_hazards.md R270). The CPU state is the
source's; the memories, `ICOUNT`, `RUNNING` and `DEBUG` are DESIGN CHOICES of the spec (D3, D4, D19; log 1, 2, 3);
the empty log is a DESIGN CHOICE of the model (log 10). -/
def State.reset : State where
  a := 0
  pc := 0
  z := false
  n := false
  c := false
  imem := []
  dmem := []
  icount := 0
  running := false
  debug := false
  log := []

end Sys2Proof.Machine
end

