-- ==== Sys2Proof/Machine/Ops.lean ====
section
/-! DEFINITION. The named operations over memory, the program counter and the log that every meaning is written
with. The machine has no exceptions, so there is no operation that takes one or returns from one
(spec/60_exceptions.md R240, R245, R246). -/

namespace Sys2Proof.Machine

/-! ### Masking -/

/-- `mask4`: the unique nibble congruent to `r` mod 16, for any integer (00_scope.md R7). For negative `r` this is the
floor modulo (PRESUMED by the spec, its G1; log 9). -/
def mask4 (r : Int) : Nibble := BitVec.ofInt 4 r

/-! ### Memory -/

/-- The word at address `k`. -/
def Memory.read (m : Memory) (k : Nat) : Nibble :=
  match m with
  | [] => Memory.unlisted
  | (j, v) :: rest => if j = k then v else Memory.read rest k

/-- The memory without a cell at `k`. -/
def Memory.erase (m : Memory) (k : Nat) : Memory := m.filter (fun x => x.1 != k)

/-- Put a cell in its place in the rising order. -/
def Memory.insert (m : Memory) (k : Nat) (v : Nibble) : Memory :=
  match m with
  | [] => [(k, v)]
  | (j, w) :: rest => if k < j then (k, v) :: (j, w) :: rest else (j, w) :: Memory.insert rest k v

/-- Write a word, keeping the canonical form: a word equal to what an unlisted address reads as is not listed. -/
def Memory.write (m : Memory) (k : Nat) (v : Nibble) : Memory :=
  if v = Memory.unlisted then Memory.erase m k else Memory.insert (Memory.erase m k) k v

/-- `MemRead(d, 1)`: `DMEM[d]` (20_memory.md R52). Total: every nibble is an address. -/
def memRead (d : Nibble) (s : State) : Nibble := Memory.read s.dmem d.toNat

/-- `MemWrite(d, 1, v)`: `DMEM[d] <- v`, no other cell (20_memory.md R52). -/
def memWrite (d v : Nibble) (s : State) : State := { s with dmem := Memory.write s.dmem d.toNat v }

/-! ### Fetch -/

/-- `Fetch(a)`: the pair `(IMEM[a], DMEM[a])` (40_cycle.md R141). It cannot fail. -/
def fetchWord (a : Nibble) (s : State) : Nibble × Nibble :=
  (Memory.read s.imem a.toNat, Memory.read s.dmem a.toNat)

/-- The instruction at `PC`: fetch and decode (40_cycle.md R141, R142). -/
def fetchInstr (s : State) : Instr := decode (fetchWord s.pc s).1 (fetchWord s.pc s).2

/-- The hardware is loaded when `ICOUNT >= 1` (44_system_run_control.md R212; DESIGN CHOICE of the spec, its decision
D5, log 5). -/
def loaded (s : State) : Bool := s.icount != 0

/-! ### The log -/

/-- `emit`: append one entry to the sink (00_scope.md R8). -/
def emit (e : Event) (s : State) : State := { s with log := s.log ++ [e] }

/-! ### Execute and advance -/

/-- What step 3 of the cycle leaves: the state, and the transient `xfer`, "the instruction signaled a control
transfer" (10_state.md R31). -/
structure Executed where
  state : State
  xfer : Bool
  deriving DecidableEq, Repr

/-- Step 3 without a control transfer. -/
def noTransfer (s : State) : Executed := ⟨s, false⟩

/-- A control transfer: `PC <- target; xfer <- 1` (43_control_transfer.md R195). -/
def transfer (target : Nibble) (s : State) : Executed := ⟨{ s with pc := target }, true⟩

/-- Step 4 of the cycle: without a control transfer `PC <- mask4(pc0 + 1)` (40_cycle.md R144). -/
def advance (pc0 : Nibble) (e : Executed) : State :=
  if e.xfer then e.state else { e.state with pc := mask4 (pc0.toNat + 1) }

/-- A meaning's answer: the advance after its arm `e`, from the state `s` before the instruction. Every instruction
completes (40_cycle.md R145). -/
def complete (s : State) (e : Executed) : Host.Outcome State Fault Refusal := .next (advance s.pc e)

end Sys2Proof.Machine
end

