-- ==== Sys2Proof/Machine/Flags.lean ====
section
/-! DEFINITION. The flags (spec/10_state.md R24, R25): all three are written together, by the six instructions that
write the accumulator. -/

namespace Sys2Proof.Machine

/-- `Z`: the masked result is 0 (10_state.md R25). -/
def flagZ (r : Int) : Bool := mask4 r == 0

/-- `N`: bit 3 of the masked result (10_state.md R25). -/
def flagN (r : Int) : Bool := (mask4 r).getLsbD 3

/-- `C`: the unmasked result exceeds 15 (10_state.md R25; 42_arithmetic.md R175). -/
def flagC (r : Int) : Bool := decide (r > 15)

/-- `SetFlags(r)`'s writes (10_state.md R25). -/
def setFlags (r : Int) (s : State) : State := { s with z := flagZ r, n := flagN r, c := flagC r }

/-- `A <- SetFlags(r)`: the flags from `r`, and the masked result into the accumulator (10_state.md R25). -/
def accumulate (r : Int) (s : State) : State := { setFlags r s with a := mask4 r }

end Sys2Proof.Machine
end

