-- ==== Sys2Proof/Machine/Operands.lean ====
section
/-! DEFINITION. The operand forms (spec/30_encoding.md R84, R85; spec/41_load_store.md R163): the data nibble is always
unsigned, with no scaling and no shift. -/

namespace Sys2Proof.Machine

/-- Immediate: `d` itself (`LDA`, `ADD`, `SUB`). -/
def immediate (d : Nibble) : Int := d.toNat

/-- Register-indirect, read: `DMEM[d]`, one level (`LDA_R`, `ADD_R`, `SUB_R`). -/
def slotValue (d : Nibble) (s : State) : Int := (memRead d s).toNat

/-- Register-indirect, write: the slot number is the address written (`STA_R`). -/
def slotAddress (d : Nibble) : Nibble := d

/-- The accumulator as an integer. -/
def accValue (s : State) : Int := s.a.toNat

/-- Absolute address: `mask4(d)` (`JMP`). -/
def jumpTarget (d : Nibble) : Nibble := mask4 d.toNat

/-- Relative offset, unsigned, from the branch's own address: `mask4(pc0 + d)` (43_control_transfer.md R194; the
spec's conflict C1, log 16). -/
def branchTarget (pc0 d : Nibble) : Nibble := mask4 (pc0.toNat + d.toNat)

end Sys2Proof.Machine
end

