-- ==== Sys2Proof/Machine/Arithmetic.lean ====
section
/-! DEFINITION. Arithmetic (spec/42_arithmetic.md R170 to R173). The sum is an integer; `SetFlags` masks it. -/

namespace Sys2Proof.Machine

/-- `ADD`: `r <- A + d; A <- SetFlags(r)` (R170). -/
def armAdd (d : Nibble) (s : State) : Executed := noTransfer (accumulate (accValue s + immediate d) s)

/-- `ADD` (R170). -/
def execAdd (d : Nibble) (s : State) : Host.Outcome State Fault Refusal := complete s (armAdd d s)

/-- `ADD_R`: `r <- A + DMEM[d]; A <- SetFlags(r)` (R171). -/
def armAddR (d : Nibble) (s : State) : Executed := noTransfer (accumulate (accValue s + slotValue d s) s)

/-- `ADD_R` (R171). -/
def execAddR (d : Nibble) (s : State) : Host.Outcome State Fault Refusal := complete s (armAddR d s)

/-- `SUB`: `r <- A + (-d); A <- SetFlags(r)`. The negation is of the integer value (R172; DESIGN CHOICE of the spec,
its decision D20, log 8), so the carry is always cleared. -/
def armSub (d : Nibble) (s : State) : Executed := noTransfer (accumulate (accValue s + -immediate d) s)

/-- `SUB` (R172). -/
def execSub (d : Nibble) (s : State) : Host.Outcome State Fault Refusal := complete s (armSub d s)

/-- `SUB_R`: `r <- A + (-DMEM[d]); A <- SetFlags(r)` (R173; the spec's decision D20, log 8). -/
def armSubR (d : Nibble) (s : State) : Executed := noTransfer (accumulate (accValue s + -slotValue d s) s)

/-- `SUB_R` (R173). -/
def execSubR (d : Nibble) (s : State) : Host.Outcome State Fault Refusal := complete s (armSubR d s)

end Sys2Proof.Machine
end

