-- ==== Sys2Proof/Machine/Control.lean ====
section
/-! DEFINITION. Control transfer (spec/43_control_transfer.md R190 to R193). No flag is written, `A` is neither read nor
written, and no memory is accessed beyond the fetch (R198). -/

namespace Sys2Proof.Machine

/-- A relative branch on a flag: taken, a control transfer to `mask4(pc0 + d)`; untaken, no effect (R191). -/
def branchIf (flag : Bool) (d : Nibble) (s : State) : Executed :=
  if flag then transfer (branchTarget s.pc d) s else noTransfer s

/-- `JMP`: `PC <- d; xfer <- 1` (R190). -/
def armJmp (d : Nibble) (s : State) : Executed := transfer (jumpTarget d) s

/-- `JMP` (R190). -/
def execJmp (d : Nibble) (s : State) : Host.Outcome State Fault Refusal := complete s (armJmp d s)

/-- `BRZ`: branch if `Z` (R191). -/
def armBrz (d : Nibble) (s : State) : Executed := branchIf s.z d s

/-- `BRZ` (R191). -/
def execBrz (d : Nibble) (s : State) : Host.Outcome State Fault Refusal := complete s (armBrz d s)

/-- `BRC`: branch if `C` (R192). -/
def armBrc (d : Nibble) (s : State) : Executed := branchIf s.c d s

/-- `BRC` (R192). -/
def execBrc (d : Nibble) (s : State) : Host.Outcome State Fault Refusal := complete s (armBrc d s)

/-- `BRN`: branch if `N` (R193). -/
def armBrn (d : Nibble) (s : State) : Executed := branchIf s.n d s

/-- `BRN` (R193). -/
def execBrn (d : Nibble) (s : State) : Host.Outcome State Fault Refusal := complete s (armBrn d s)

end Sys2Proof.Machine
end

