-- ==== Sys2Proof/Machine/LoadStore.lean ====
section
/-! DEFINITION. Loads and the store (spec/41_load_store.md R160 to R162). -/

namespace Sys2Proof.Machine

/-- `LDA`: `A <- SetFlags(d)` (R160). -/
def armLda (d : Nibble) (s : State) : Executed := noTransfer (accumulate (immediate d) s)

/-- `LDA` (R160). -/
def execLda (d : Nibble) (s : State) : Host.Outcome State Fault Refusal := complete s (armLda d s)

/-- `LDA_R`: `A <- SetFlags(MemRead(d, 1))` (R161). -/
def armLdaR (d : Nibble) (s : State) : Executed := noTransfer (accumulate (slotValue d s) s)

/-- `LDA_R` (R161). -/
def execLdaR (d : Nibble) (s : State) : Host.Outcome State Fault Refusal := complete s (armLdaR d s)

/-- `STA_R`: `MemWrite(d, 1, A)`; no flag changes (R162). -/
def armStaR (d : Nibble) (s : State) : Executed := noTransfer (memWrite (slotAddress d) s.a s)

/-- `STA_R` (R162). -/
def execStaR (d : Nibble) (s : State) : Host.Outcome State Fault Refusal := complete s (armStaR d s)

end Sys2Proof.Machine
end

