-- ==== Sys2Proof/Machine/NoOp.lean ====
section
/-! DEFINITION. `NOP` and the unassigned opcodes (spec/40_cycle.md R146, R147). For each instruction: its arm of step 3
of the cycle (R140), and its meaning, the arm followed by the advance. -/

namespace Sys2Proof.Machine

/-- `NOP`: nothing; `d` is ignored (R146). -/
def armNop (_d : Nibble) (s : State) : Executed := noTransfer s

/-- `NOP` (R146). -/
def execNop (d : Nibble) (s : State) : Host.Outcome State Fault Refusal := complete s (armNop d s)

/-- An unassigned opcode: `emit UnknownOpcode(pc0, op)`, nothing else; `d` is ignored (R147). -/
def armUnk (op _d : Nibble) (s : State) : Executed := noTransfer (emit (.unknownOpcode s.pc op) s)

/-- `UNK` (R147). -/
def execUnk (op d : Nibble) (s : State) : Host.Outcome State Fault Refusal := complete s (armUnk op d s)

end Sys2Proof.Machine
end

