-- ==== Sys2Proof/Machine/Dispatch.lean ====
section
/-! DEFINITION. The one match from an instruction to its meaning: one arm for each row of spec/opcode_table.json. -/

namespace Sys2Proof.Machine

def exec (i : Instr) (s : State) : Host.Outcome State Fault Refusal :=
  match i with
  | .nop d => Sys2Proof.Machine.execNop d s
  | .lda d => Sys2Proof.Machine.execLda d s
  | .ldaR d => Sys2Proof.Machine.execLdaR d s
  | .staR d => Sys2Proof.Machine.execStaR d s
  | .add d => Sys2Proof.Machine.execAdd d s
  | .addR d => Sys2Proof.Machine.execAddR d s
  | .sub d => Sys2Proof.Machine.execSub d s
  | .subR d => Sys2Proof.Machine.execSubR d s
  | .jmp d => Sys2Proof.Machine.execJmp d s
  | .brz d => Sys2Proof.Machine.execBrz d s
  | .brc d => Sys2Proof.Machine.execBrc d s
  | .brn d => Sys2Proof.Machine.execBrn d s
  | .unk op d => Sys2Proof.Machine.execUnk op d s

end Sys2Proof.Machine
end

