-- ==== Sys2Proof/Machine/Step.lean ====
section
/-! DEFINITION. One step of the machine: the host operation Step (spec/44_system_run_control.md R213). -/

namespace Sys2Proof.Machine

/-- Step: on hardware that is not loaded nothing (44_system_run_control.md R212), else exactly one cycle, of the
instruction at `PC`, wherever `PC` points (R213; DESIGN CHOICE of the spec, its decisions D5, D18, D27, log 5). -/
def step (s : State) : Host.Outcome State Fault Refusal :=
  if loaded s then exec (fetchInstr s) s else .next s

/-- `s` with the instruction whose 8-bit presentation is `w` at `PC`: its opcode nibble in `IMEM[PC]`, its data nibble
in `DMEM[PC]`, and, where nothing is loaded, an instruction count of 1, without which Step does nothing (R212). It
stands for the host's Load (log 6). -/
def State.withFetchWord (s : State) (_nbits w : Nat) : State :=
  { s with
    imem := Memory.write s.imem s.pc.toNat (opNibble w)
    dmem := Memory.write s.dmem s.pc.toNat (dataNibble w)
    icount := if s.icount = 0 then 1 else s.icount }

end Sys2Proof.Machine
end

