-- ==== Sys2Proof/Machine/Assembler.lean ====
section
/-! DEFINITION. The Assembler (spec/30_encoding.md Part B, R90 to R114): a pure function from source text to a sequence
of instruction nodes or one error, and the diagnostics it emits. Source text is a list of characters (log 14). -/

namespace Sys2Proof.Machine

/-! ### Lines and tokens -/

/-- Whitespace within a line: space, horizontal tab, carriage return (R94; the spec's decision D23, log 14). -/
def isWhite (c : Char) : Bool := c == ' ' || c == '\t' || c == '\r'

/-- A line without leading and trailing whitespace (R94). -/
def trim (line : List Char) : List Char :=
  ((line.dropWhile isWhite).reverse.dropWhile isWhite).reverse

/-- The non-empty, trimmed lines of the source, in order (R94). -/
def sourceLines (src : List Char) : List (List Char) :=
  ((src.splitOn '\n').map trim).filter (fun l => !l.isEmpty)

/-- The tokens of a line: maximal runs of non-whitespace characters (R95). -/
def tokens (line : List Char) : List Token :=
  (line.splitOnP isWhite).filter (fun t => !t.isEmpty)

/-- What is wrong with one line by itself (R109). -/
inductive LineError where
  | malformed
  | badNumber
  deriving DecidableEq, Repr

/-- The label declaration of a line, if any, and its other tokens; `none` for an empty label name (R96, R98). -/
def takeLabel : List Token → Option (Option LabelName × List Token)
  | (':' :: name) :: rest => if name.isEmpty then none else some (some name, rest)
  | toks => some (none, toks)

/-- A mnemonic and at most one operand; every other number of tokens is malformed (R96). -/
def takeInstr : List Token → Option (Token × Option Token)
  | [m] => some (m, none)
  | [m, o] => some (m, some o)
  | _ => none

/-- The source spelling of a base mnemonic: upper case, exactly (R99; the spec's decision D11, log 15). -/
def Mnemonic.spelling : Mnemonic → Token
  | .nop => "NOP".toList
  | .lda => "LDA".toList
  | .sta => "STA".toList
  | .add => "ADD".toList
  | .sub => "SUB".toList
  | .jmp => "JMP".toList
  | .brz => "BRZ".toList
  | .brc => "BRC".toList
  | .brn => "BRN".toList

/-- The nine base mnemonics (R99). -/
def baseMnemonics : List Mnemonic := [.nop, .lda, .sta, .add, .sub, .jmp, .brz, .brc, .brn]

/-- The base mnemonic that a token spells (R99). -/
def mnemonicOf (t : Token) : Option Mnemonic := baseMnemonics.find? (fun m => Mnemonic.spelling m == t)

/-! ### Operands -/

/-- The form of an operand text (R100, R101, R102). -/
inductive OperandForm where
  | absent
  | immediate (number : Token)
  | slot (number : Token)
  | target (name : Token)
  deriving DecidableEq, Repr

/-- The form of a numeric operand, in the order of R100: `#` marks an immediate, parentheses or no mark a data slot
(the spec's decision D8, log 15). -/
def numericForm (t : Token) : OperandForm :=
  match t with
  | '#' :: number => .immediate number
  | '(' :: rest => if rest.getLast? = some ')' then .slot rest.dropLast else .slot t
  | _ => .slot t

/-- The form of the operand, absent or not; the operand of `JMP` is a label name whatever its spelling (R100, R102;
the spec's decision D10, log 15). -/
def operandForm (m : Mnemonic) (o : Option Token) : OperandForm :=
  match o with
  | none => .absent
  | some t => if m = .jmp then .target t else numericForm t

/-- The kind of a mnemonic with an operand form: the table of R101 (the spec's decision D9, log 15). -/
def selectKind (m : Mnemonic) (f : OperandForm) : Option Kind :=
  match m, f with
  | .nop, .absent => some .nop
  | .lda, .immediate _ => some .lda
  | .lda, .slot _ => some .ldaR
  | .sta, .slot _ => some .staR
  | .add, .immediate _ => some .add
  | .add, .slot _ => some .addR
  | .sub, .immediate _ => some .sub
  | .sub, .slot _ => some .subR
  | .jmp, .target _ => some .jmp
  | .brz, .immediate _ => some .brz
  | .brc, .immediate _ => some .brc
  | .brn, .immediate _ => some .brn
  | _, _ => none

/-- A decimal digit of a `<uint>` (R114). -/
def isDigit (c : Char) : Bool := decide ('0'.toNat ≤ c.toNat) && decide (c.toNat ≤ '9'.toNat)

/-- A `<uint>`: one or more decimal digits, of any magnitude (R103; the spec's decision D12, log 15). -/
def parseUint (t : Token) : Option Nat :=
  if !t.isEmpty && t.all isDigit then some (t.foldl (fun v c => 10 * v + (c.toNat - '0'.toNat)) 0) else none

/-- The operand of a form; `none` where its number text is no `<uint>` (R103). -/
def operandOf (f : OperandForm) : Option Operand :=
  match f with
  | .absent => some .none
  | .immediate number => (parseUint number).map .immediate
  | .slot number => (parseUint number).map .registerRef
  | .target name => some (.labelRef name)

/-- Classify an operand text: the kind first, then the number (R101, R103). -/
def classify (m : Mnemonic) (o : Option Token) : Except LineError (Kind × Operand) :=
  match selectKind m (operandForm m o) with
  | none => .error .malformed
  | some k =>
    match operandOf (operandForm m o) with
    | none => .error .badNumber
    | some x => .ok (k, x)

/-- Steps 1 to 3 of the first pass but for the label table: a line's tokens as a node, a `JMP`'s operand still a
label name (R104). -/
def readLine (toks : List Token) : Except LineError Node :=
  match takeLabel toks with
  | none => .error .malformed
  | some (label, rest) =>
    match takeInstr rest with
    | none => .error .malformed
    | some (m, o) =>
      match mnemonicOf m with
      | none => .error .malformed
      | some base =>
        match classify base o with
        | .error e => .error e
        | .ok (kind, operand) => .ok ⟨base, kind, operand, label⟩

/-! ### The two passes -/

/-- The five errors, all fatal (R109). -/
inductive AsmError where
  | malformedLine (k : Nat)
  | invalidNumber (k : Nat)
  | duplicateLabel (name : LabelName) (k1 k2 : Nat)
  | tooManyInstructions (k : Nat)
  | unresolvedLabel (name : LabelName)
  deriving DecidableEq, Repr

/-- The one error diagnostic of a failed assembly (R109, R111). -/
def AsmError.event : AsmError → Event
  | .malformedLine k => .malformedLine k
  | .invalidNumber k => .invalidNumber k
  | .duplicateLabel name k1 k2 => .duplicateLabel name k1 k2
  | .tooManyInstructions k => .tooManyInstructions k
  | .unresolvedLabel name => .unresolvedLabel name

/-- The working data of one assembly (R93), the sequence so far, and the diagnostics emitted. -/
structure Pass where
  seq : List Node
  labels : List (LabelName × Nat)
  queue : List Nat
  events : List Event
  deriving DecidableEq, Repr

/-- An assembly aborted: the error, and the diagnostics emitted before it (R109). -/
structure Abort where
  error : AsmError
  events : List Event
  deriving DecidableEq, Repr

/-- Step 3 for `JMP`, on line `k`: a declared label is resolved at once; any other is a forward reference, logged and
queued under the index this instruction will have (R102). -/
def resolveNow (k : Nat) (node : Node) (p : Pass) : Node × Pass :=
  match node.operand with
  | .labelRef name =>
    match p.labels.lookup name with
    | some addr => ({ node with operand := .resolvedAddress addr }, p)
    | none => (node, { p with
        queue := p.queue ++ [p.seq.length]
        events := p.events ++ [.forwardReference name k] })
  | _ => (node, p)

/-- Step 4, on line `k`: register the line's label with the address this instruction will get. The line that first
declared a label stands one after its address, since every line yields one instruction (R104, R105, R106; the spec's
decision D25, log 15). -/
def declareLabel (k : Nat) (label : Option LabelName) (p : Pass) : Except Abort Pass :=
  match label with
  | none => .ok p
  | some name =>
    match p.labels.lookup name with
    | some addr => .error ⟨.duplicateLabel name (addr + 1) k, p.events⟩
    | none => .ok { p with labels := p.labels ++ [(name, p.seq.length)] }

/-- Step 5, on line `k`: append the node, if the program has room (R104, R108; the spec's decision D15, log 15). -/
def appendNode (k : Nat) (node : Node) (p : Pass) : Except Abort Pass :=
  if p.seq.length = Config.maxProg then .error ⟨.tooManyInstructions k, p.events⟩
  else .ok { p with seq := p.seq ++ [node] }

/-- The first pass on line `k` (R104). -/
def passLine (k : Nat) (line : List Char) (p : Pass) : Except Abort Pass :=
  match readLine (tokens line) with
  | .error .malformed => .error ⟨.malformedLine k, p.events⟩
  | .error .badNumber => .error ⟨.invalidNumber k, p.events⟩
  | .ok node =>
    match declareLabel k node.label (resolveNow k node p).2 with
    | .error e => .error e
    | .ok q => appendNode k (resolveNow k node p).1 q

/-- The first pass over the remaining lines, the first of which is line `k` (R104). -/
def firstPass (k : Nat) (lines : List (List Char)) (p : Pass) : Except Abort Pass :=
  match lines with
  | [] => .ok p
  | line :: rest =>
    match passLine k line p with
    | .error e => .error e
    | .ok q => firstPass (k + 1) rest q

/-- Resolve the queued instruction `i` against the completed label table (R107). -/
def resolveQueued (labels : List (LabelName × Nat)) (i : Nat) (seq : List Node) : Except AsmError (List Node) :=
  match seq[i]? with
  | none => .ok seq
  | some node =>
    match node.operand with
    | .labelRef name =>
      match labels.lookup name with
      | some addr => .ok (seq.set i { node with operand := .resolvedAddress addr })
      | none => .error (.unresolvedLabel name)
    | _ => .ok seq

/-- The second pass, in queue order (R107). -/
def secondPass (labels : List (LabelName × Nat)) (queue : List Nat) (seq : List Node) :
    Except AsmError (List Node) :=
  match queue with
  | [] => .ok seq
  | i :: rest =>
    match resolveQueued labels i seq with
    | .error e => .error e
    | .ok seq' => secondPass labels rest seq'

/-- The result of an assembly: the sequence, or the one error met first (R90, R109, R110). -/
inductive AsmResult where
  | ok (seq : List Node)
  | err (e : AsmError)
  deriving DecidableEq, Repr

/-- The instruction sequence a result stands for: empty on an error, never a partial one (R90, R110). -/
def AsmResult.sequence : AsmResult → List Node
  | .ok seq => seq
  | .err _ => []

/-- An assembly's result and its diagnostics, in emission order. -/
structure Assembled where
  result : AsmResult
  events : List Event
  deriving DecidableEq, Repr

/-- The assembler (R90, R104, R107). -/
def assemble (src : List Char) : Assembled :=
  match firstPass 1 (sourceLines src) ⟨[], [], [], []⟩ with
  | .error e => ⟨.err e.error, e.events ++ [AsmError.event e.error]⟩
  | .ok p =>
    match secondPass p.labels p.queue p.seq with
    | .error e => ⟨.err e, p.events ++ [AsmError.event e]⟩
    | .ok seq => ⟨.ok seq, p.events⟩

end Sys2Proof.Machine
end

