-- ==== Sys2Proof/Machine/MemoryEncoder.lean ====
section
/-! DEFINITION. The Memory Encoder (spec/30_encoding.md Part C, R120 to R129), which is the host operation Load. -/

namespace Sys2Proof.Machine

/-- The mnemonic of a kind in the opcode table (R82). -/
def Kind.name : Kind → Token
  | .nop => "NOP".toList
  | .lda => "LDA".toList
  | .ldaR => "LDA_R".toList
  | .staR => "STA_R".toList
  | .add => "ADD".toList
  | .addR => "ADD_R".toList
  | .sub => "SUB".toList
  | .subR => "SUB_R".toList
  | .jmp => "JMP".toList
  | .brz => "BRZ".toList
  | .brc => "BRC".toList
  | .brn => "BRN".toList

/-- The 12 kinds, in the order of the opcode table (R82). -/
def kinds : List Kind := [.nop, .lda, .ldaR, .staR, .add, .addR, .sub, .subR, .jmp, .brz, .brc, .brn]

/-- The kind that a mnemonic of the opcode table names (R82). -/
def kindNamed (name : Token) : Option Kind := kinds.find? (fun k => Kind.name k == name)

/-- The opcode nibble of the mnemonic at position `i`, with the encoder's defensive fallback: an unrecognised mnemonic
is written as `NOP` and a warning logged (R122; the spec's decision D26, log 17). -/
def opcodeNamed (i : Nat) (name : Token) : Nibble × List Event :=
  match kindNamed name with
  | some k => (opcode k, [])
  | none => (opcode .nop, [.encoderFallback i])

/-- The number an operand stands for; `NOP` has none, and an unresolved label none yet (R92, R123). -/
def Operand.value : Operand → Option Nat
  | .none => none
  | .immediate n => some n
  | .registerRef n => some n
  | .labelRef _ => none
  | .resolvedAddress a => some a

/-- The memories an encoding writes, and the diagnostics it emits. -/
structure Image where
  imem : Memory
  dmem : Memory
  events : List Event
  deriving DecidableEq, Repr

/-- Both memories zero (R121). -/
def Image.zero : Image := ⟨[], [], []⟩

/-- The data nibble of the operand at position `i`: masked, or left at its prior value where there is no operand
(R123). -/
def writeOperand (i : Nat) (x : Operand) (dmem : Memory) : Memory :=
  match Operand.value x with
  | some v => Memory.write dmem i (mask4 v)
  | none => dmem

/-- Write the instruction at position `i` (R122, R123). -/
def encodeNode (i : Nat) (node : Node) (m : Image) : Image where
  imem := Memory.write m.imem i (opcodeNamed i (Kind.name node.kind)).1
  dmem := writeOperand i node.operand m.dmem
  events := m.events ++ (opcodeNamed i (Kind.name node.kind)).2

/-- Write a sequence from position `i` on. -/
def encodeFrom (i : Nat) (seq : List Node) (m : Image) : Image :=
  match seq with
  | [] => m
  | node :: rest => encodeFrom (i + 1) rest (encodeNode i node m)

/-- The image of a sequence, from zeroed memories (R120, R121). -/
def imageOf (seq : List Node) : Image := encodeFrom 0 seq Image.zero

end Sys2Proof.Machine
end

