-- ==== Sys2Proof/Machine/Cycle.lean ====
section
/-! DEFINITION. One fetch-decode-execute cycle with what it returns to its caller, the pair (`xfer`, `pc0`)
(spec/40_cycle.md R140). Every meaning is its arm here followed by the same advance. -/

namespace Sys2Proof.Machine

/-- Step 3 of the cycle, one arm per kind (R140). -/
def arm (i : Instr) (s : State) : Executed :=
  match i with
  | .nop d => armNop d s
  | .lda d => armLda d s
  | .ldaR d => armLdaR d s
  | .staR d => armStaR d s
  | .add d => armAdd d s
  | .addR d => armAddR d s
  | .sub d => armSub d s
  | .subR d => armSubR d s
  | .jmp d => armJmp d s
  | .brz d => armBrz d s
  | .brc d => armBrc d s
  | .brn d => armBrn d s
  | .unk op d => armUnk op d s

/-- What a cycle leaves and returns (R140). -/
structure CycleResult where
  state : State
  xfer : Bool
  pc0 : Nibble
  deriving DecidableEq, Repr

/-- The cycle: fetch and decode at `PC`, execute, advance (R140). Total: no cycle faults, traps or blocks (R145). -/
def cycle (s : State) : CycleResult :=
  let e := arm (fetchInstr s) s
  ⟨advance s.pc e, e.xfer, s.pc⟩

/-- A cycle that ended with `xfer = 1` and `PC = pc0`: the guard's condition (44_system_run_control.md R216). -/
def CycleResult.selfTransfer (r : CycleResult) : Bool := r.xfer && r.state.pc == r.pc0

end Sys2Proof.Machine
end

