-- ==== Sys2Proof/Machine/Run.lean ====
section
/-! DEFINITION. The host operation Run (spec/44_system_run_control.md R214 to R219): cycles until the program counter
leaves the program, the self-loop guard fires, or the budget is used up. With no budget a Run may never return (R217),
so the loop is written with a fuel that only truncates it: `none` means that the fuel ran out before Run returned. -/

namespace Sys2Proof.Machine

/-- The outcome of a Run (R218). -/
inductive RunOutcome where
  | notLoaded | ended | selfLoop | budgetExceeded
  deriving DecidableEq, Repr

/-- What one turn of Run's loop does: return, or go on with `n` cycles executed so far. -/
inductive RunTurn where
  | returns (o : RunOutcome) (s : State)
  | goesOn (n : Nat) (s : State)
  deriving DecidableEq, Repr

/-- `PC >= ICOUNT`: the program counter is outside the program (R215). -/
def outOfProgram (s : State) : Bool := decide (s.icount.val ≤ s.pc.toNat)

/-- Write `RUNNING` (R219; the spec's decision D19, log 3). -/
def setRunning (b : Bool) (s : State) : State := { s with running := b }

/-- Clear `DEBUG`, as the guard does (R216, R220). -/
def clearDebug (s : State) : State := { s with debug := false }

/-- What every return of Run's loop does: log the event, `RUNNING <- 0` (R214, R219). -/
def stopRun (e : Event) (s : State) : State := setRunning false (emit e s)

/-- One turn of Run's loop after `n` cycles: range test, budget test, cycle, guard, in this order (R214; DESIGN CHOICE
of the spec, its decision D22, log 11). -/
def runTurn (budget : Option Nat) (n : Nat) (s : State) : RunTurn :=
  if outOfProgram s then
    .returns .ended (stopRun (.programEnd s.pc) s)
  else if budget = some n then
    .returns .budgetExceeded (stopRun (.budgetExceeded s.pc n) s)
  else if (cycle s).selfTransfer then
    .returns .selfLoop (clearDebug (stopRun (.selfLoop s.pc) (cycle s).state))
  else
    .goesOn (n + 1) (cycle s).state

/-- At most `fuel` turns of Run's loop, from `n` cycles executed. -/
def runLoop (budget : Option Nat) (fuel n : Nat) (s : State) : Option (RunOutcome × State) :=
  match fuel with
  | 0 => none
  | fuel + 1 =>
    match runTurn budget n s with
    | .returns o t => some (o, t)
    | .goesOn m t => runLoop budget fuel m t

/-- Run: the loaded check, `RUNNING <- 1`, the loop (R212, R214, R219). -/
def runFuel (budget : Option Nat) (fuel : Nat) (s : State) : Option (RunOutcome × State) :=
  if loaded s then runLoop budget fuel 0 (setRunning true s) else some (.notLoaded, s)

/-- A Run from `s` returns `o` and leaves `t`. -/
def RunReturns (budget : Option Nat) (s : State) (o : RunOutcome) (t : State) : Prop :=
  ∃ fuel, runFuel budget fuel s = some (o, t)

/-- A Run from `s` never returns (R217, R218). -/
def RunDiverges (budget : Option Nat) (s : State) : Prop :=
  ∀ fuel, runFuel budget fuel s = none

end Sys2Proof.Machine
end

