-- ==== Sys2Proof/Machine/HostOps.lean ====
section
/-! DEFINITION. The host operations (spec/44_system_run_control.md R211): Load, Reset, Step, Run, DebugOn, the build that
leads to a Load, and reading the observable state. Each is atomic; the host acts only between them
(spec/00_scope.md R11). -/

namespace Sys2Proof.Machine

/-- Load: replace both memories by the program's image and `ICOUNT` by its length; nothing else but the log
(30_encoding.md R120 to R125). -/
def load (p : Program) (s : State) : State :=
  { s with
    imem := (imageOf p.nodes).imem
    dmem := (imageOf p.nodes).dmem
    icount := Fin.ofNat 17 p.nodes.length
    log := s.log ++ (imageOf p.nodes).events }

/-- Reset: the CPU state and the `RUNNING` and `DEBUG` flags to zero; the memories and `ICOUNT` are kept
(70_reset_and_hazards.md R271, R272). The log is kept too (60_exceptions.md R254; log 10). -/
def resetOp (s : State) : State :=
  { s with a := 0, pc := 0, z := false, n := false, c := false, running := false, debug := false }

/-- Step: exactly one cycle if the hardware is loaded, else nothing; no guard, no range test
(44_system_run_control.md R213). -/
def stepOp (s : State) : State := if loaded s then (cycle s).state else s

/-- DebugOn: `DEBUG <- 1` (44_system_run_control.md R220; the spec's decision D19, log 3). -/
def debugOn (s : State) : State := { s with debug := true }

/-- The build: assemble, log the diagnostics, and Load if and only if the assembly succeeded with a non-empty sequence
(30_encoding.md R126; the spec's decision D6, log 18). The check that the sequence may be loaded never fails on a
successful, non-empty assembly (R127). -/
def build (src : List Char) (s : State) : State :=
  let s' := { s with log := s.log ++ (assemble src).events }
  if h : programOk (AsmResult.sequence (assemble src).result) = true then load ⟨_, h⟩ s' else s'

/-- The five host operations (R211). -/
inductive HostOp where
  | load (p : Program)
  | reset
  | step
  | run
  | debugOn
  deriving DecidableEq

/-- What each host operation may leave. Run is a relation, since it may never return; its budget is the open
parameter. -/
inductive HostStep : HostOp → State → State → Prop where
  | load (p : Program) (s : State) : HostStep (.load p) s (Machine.load p s)
  | reset (s : State) : HostStep .reset s (resetOp s)
  | step (s : State) : HostStep .step s (stepOp s)
  | run (s t : State) (o : RunOutcome) : RunReturns Config.runBudget s o t → HostStep .run s t
  | debugOn (s : State) : HostStep .debugOn s (Machine.debugOn s)

/-- What the host may read between cycles, which is all ten elements of the state (60_exceptions.md R252): the
register and flag snapshot and the 16 words of each memory (10_state.md R35), and the engine-control elements
`ICOUNT`, `RUNNING` and `DEBUG`, visible to the host only (10_state.md R20, R30, R32). -/
structure Observation where
  a : Nibble
  pc : Nibble
  z : Bool
  n : Bool
  c : Bool
  imem : List Nibble
  dmem : List Nibble
  icount : Fin 17
  running : Bool
  debug : Bool
  deriving DecidableEq, Repr

/-- The 16 words of a memory, from address 0. -/
def Memory.words (m : Memory) : List Nibble := (List.range Config.depth).map (Memory.read m)

/-- Reading the observable state (10_state.md R20, R32, R35). It changes nothing. -/
def observe (s : State) : Observation where
  a := s.a
  pc := s.pc
  z := s.z
  n := s.n
  c := s.c
  imem := Memory.words s.imem
  dmem := Memory.words s.dmem
  icount := s.icount
  running := s.running
  debug := s.debug

end Sys2Proof.Machine
end

