-- ==== Sys2Proof/Safety.lean ====
section
/-! DEFINITION. The words claims are stated in: invariants of the state, several steps, and the states the host can
reach. -/

namespace Sys2Proof.Machine

/-- Both memories have the canonical form. -/
def MemoriesWf (s : State) : Prop := Memory.wf s.imem ∧ Memory.wf s.dmem

/-- What the flags say of the accumulator in every state from reset on: `N` is bit 3 of `A`, and `Z` is set only when
`A` is 0 (42_arithmetic.md R176: the converse fails after Reset). -/
def FlagsDescribeAcc (s : State) : Prop := s.n = s.a.getLsbD 3 ∧ (s.z = true → s.a = 0)

/-- Every word of `IMEM` is one of the 12 assigned opcodes (30_encoding.md R128). -/
def OpcodesAssigned (s : State) : Prop := ∀ k, (Memory.read s.imem k).toNat < 12

/-- The invariant of the host operations: both memories are canonical, every opcode is assigned, the flags describe
the accumulator, and `RUNNING` is 0, as it is whenever the host can look (44_system_run_control.md R219). -/
def HostInv (s : State) : Prop := MemoriesWf s ∧ OpcodesAssigned s ∧ FlagsDescribeAcc s ∧ s.running = false

/-- The image of `p`: each instruction's opcode and masked operand (0 for `NOP`) at its position, 0 in every word above
the program, and `ICOUNT` its length (30_encoding.md R128). -/
def HoldsImage (p : Program) (s : State) : Prop :=
  (∀ (i : Nat) (node : Node), p.nodes[i]? = some node →
    Memory.read s.imem i = opcode node.kind ∧
    Memory.read s.dmem i = (match Operand.value node.operand with | some v => mask4 v | none => 0)) ∧
  (∀ k, p.nodes.length ≤ k → Memory.read s.imem k = 0 ∧ Memory.read s.dmem k = 0) ∧
  s.icount.val = p.nodes.length

/-- `k` host Steps. -/
def stepN (k : Nat) (s : State) : State :=
  match k with
  | 0 => s
  | k + 1 => stepN k (stepOp s)

/-- Equal in everything an instruction may read or write but the log: `A`, `PC`, the flags and the memories
(44_system_run_control.md R225). -/
def SameArch (s t : State) : Prop :=
  s.a = t.a ∧ s.pc = t.pc ∧ s.z = t.z ∧ s.n = t.n ∧ s.c = t.c ∧ s.imem = t.imem ∧ s.dmem = t.dmem

/-- The states the host can reach from engine initialisation, by host operations and builds
(44_system_run_control.md R211; 30_encoding.md R126). -/
inductive HostReachable : State → Prop where
  | init : HostReachable State.reset
  | op (o : HostOp) (s t : State) : HostReachable s → HostStep o s t → HostReachable t
  | build (src : List Char) (s : State) : HostReachable s → HostReachable (Machine.build src s)

/-- The six instructions that write the accumulator and the flags (10_state.md R24). -/
def writesAcc (i : Instr) : Bool :=
  match i with
  | .lda _ | .ldaR _ | .add _ | .addR _ | .sub _ | .subR _ => true
  | .nop _ | .staR _ | .jmp _ | .brz _ | .brc _ | .brn _ | .unk _ _ => false

/-- Operand texts `f t`, for `t` a `<uint>`, select kind `k` and operand `x` under mnemonic `m`
(30_encoding.md R101, R103). -/
def SourceForm (m : Mnemonic) (f : Token → Token) (k : Kind) (x : Nat → Operand) : Prop :=
  ∀ t v, parseUint t = some v → classify m (some (f t)) = .ok (k, x v)

/-- The spelling `#n` of an immediate. -/
def hashed (t : Token) : Token := '#' :: t

/-- The spelling `(n)` of a data slot. -/
def parenthesised (t : Token) : Token := '(' :: (t ++ [')'])

/-- The spelling `n` of a data slot. -/
def bare (t : Token) : Token := t

/-- What one cycle reads of a state to find its next CPU state: `A`, `PC`, the flags, the two fetched nibbles, and the
data slot the data nibble names (40_cycle.md R145). -/
def SameInputs (s t : State) : Prop :=
  s.a = t.a ∧ s.pc = t.pc ∧ s.z = t.z ∧ s.n = t.n ∧ s.c = t.c ∧ fetchWord s.pc s = fetchWord t.pc t ∧
    memRead (fetchWord s.pc s).2 s = memRead (fetchWord t.pc t).2 t

end Sys2Proof.Machine
end

