-- ==== Sys2Proof/Certificates/Slice0/Obligations.lean ====
section
/-! DEFINITION. The statements for the provers. Each docstring names the rules of spec/ it rests on. -/

open Sys2Proof Sys2Proof.Machine

/-! ## Encoding -/

/-- R142, and the table of R82: the kind and the instruction of each of the 16 opcode nibbles, whatever the data
nibble, and the code of each of the 12 kinds. -/
def Obligations.OpcodeTableBothDirections : Prop :=
  (∀ d : Nibble,
    decode 0x0 d = .nop d ∧ decode 0x1 d = .lda d ∧ decode 0x2 d = .ldaR d ∧ decode 0x3 d = .staR d ∧
    decode 0x4 d = .add d ∧ decode 0x5 d = .addR d ∧ decode 0x6 d = .sub d ∧ decode 0x7 d = .subR d ∧
    decode 0x8 d = .jmp d ∧ decode 0x9 d = .brz d ∧ decode 0xA d = .brc d ∧ decode 0xB d = .brn d ∧
    decode 0xC d = .unk 0xC d ∧ decode 0xD d = .unk 0xD d ∧ decode 0xE d = .unk 0xE d ∧ decode 0xF d = .unk 0xF d) ∧
  decodeKind 0x0 = some .nop ∧ decodeKind 0x1 = some .lda ∧ decodeKind 0x2 = some .ldaR ∧
  decodeKind 0x3 = some .staR ∧ decodeKind 0x4 = some .add ∧ decodeKind 0x5 = some .addR ∧
  decodeKind 0x6 = some .sub ∧ decodeKind 0x7 = some .subR ∧ decodeKind 0x8 = some .jmp ∧
  decodeKind 0x9 = some .brz ∧ decodeKind 0xA = some .brc ∧ decodeKind 0xB = some .brn ∧
  decodeKind 0xC = none ∧ decodeKind 0xD = none ∧ decodeKind 0xE = none ∧ decodeKind 0xF = none ∧
  opcode .nop = 0x0 ∧ opcode .lda = 0x1 ∧ opcode .ldaR = 0x2 ∧ opcode .staR = 0x3 ∧
  opcode .add = 0x4 ∧ opcode .addR = 0x5 ∧ opcode .sub = 0x6 ∧ opcode .subR = 0x7 ∧
  opcode .jmp = 0x8 ∧ opcode .brz = 0x9 ∧ opcode .brc = 0xA ∧ opcode .brn = 0xB

/-- R81, R82: a few 8-bit presentations written out from the table, one for each family. -/
def Obligations.SampleWordsDecode : Prop :=
  decodeTableWord 8 0b00000000 = some (.nop 0) ∧
  decodeTableWord 8 0b00010001 = some (.lda 1) ∧
  decodeTableWord 8 0b00101111 = some (.ldaR 15) ∧
  decodeTableWord 8 0b00111111 = some (.staR 15) ∧
  decodeTableWord 8 0b01000010 = some (.add 2) ∧
  decodeTableWord 8 0b01100001 = some (.sub 1) ∧
  decodeTableWord 8 0b10000001 = some (.jmp 1) ∧
  decodeTableWord 8 0b10110010 = some (.brn 2) ∧
  decodeTableWord 8 0b11100111 = some (.unk 14 7)

/-- R80 to R87: decoding the encoding of a well-formed instruction gives it back, as nibbles and as an 8-bit
presentation; encoding a decoded pair gives the pair back; everything decoded is well formed. -/
def Obligations.DecodeEncodeAgree : Prop :=
  (∀ i : Instr, i.wellFormed = true →
    decode (encode i).1 (encode i).2 = i ∧ decodeTableWord 8 (presentation (encode i)) = some i) ∧
  (∀ op d : Nibble, (decode op d).wellFormed = true ∧ encode (decode op d) = (op, d))

/-- R87: the round trip of kinds and codes, and that the 12 codes are distinct. -/
def Obligations.KindCodeRoundTrip : Prop :=
  (∀ k : Kind, decodeKind (opcode k) = some k) ∧
  (∀ op : Nibble, op.toNat < 12 → ∃ k, decodeKind op = some k ∧ opcode k = op) ∧
  (∀ k k' : Kind, opcode k = opcode k' → k = k')

/-! ## The step -/

/-- R140, R141, R142, R213: on loaded hardware, when the two nibbles at `PC` decode to a well-formed `i`, the step is
`exec i`, and nothing is added around it. -/
def Obligations.StepRunsTheDecodedInstruction : Prop :=
  ∀ (s : State) (i : Instr), i.wellFormed = true → s.icount ≠ 0 →
    decode (Memory.read s.imem s.pc.toNat) (Memory.read s.dmem s.pc.toNat) = i → step s = exec i s

/-- R212 (the spec's decisions D5, D27; log 5): Step and Run on hardware that is not loaded change nothing. -/
def Obligations.NotLoadedChangesNothing : Prop :=
  ∀ s : State, s.icount = 0 → step s = .next s ∧
    ∀ (b : Option Nat) (o : RunOutcome) (t : State), RunReturns b s o t ↔ o = .notLoaded ∧ t = s

/-- R145, R240: every step answers a next state, the one the host's Step leaves; there is no fault and no refusal. -/
def Obligations.EveryStepCompletes : Prop :=
  ∀ s : State, step s = .next (stepOp s)

/-- Log 6 (the model's loader entry point): the step after `withFetchWord` runs the instruction placed. -/
def Obligations.PlacedWordRunsNext : Prop :=
  ∀ (s : State) (w : Nat) (i : Instr), decodeTableWord 8 w = some i →
    step (s.withFetchWord 8 w) = exec i (s.withFetchWord 8 w)

/-! ## The instructions: source form, encoding, result and frame -/

/-- R146. -/
def Obligations.NopAdvancesOnly : Prop :=
  ∀ (d : Nibble) (s : State), decode 0x0 d = .nop d ∧ (arm (.nop d) s).xfer = false ∧
    exec (.nop d) s = .next { s with pc := s.pc + 1 }

/-- R160, with the carry by the common formula (never true of a nibble). -/
def Obligations.LdaLoadsTheImmediate : Prop :=
  SourceForm .lda hashed .lda .immediate ∧
  ∀ (d : Nibble) (s : State), decode 0x1 d = .lda d ∧
    exec (.lda d) s = .next { s with
      a := d, z := decide (d = 0), n := decide (8 ≤ d.toNat), c := decide (15 < d.toNat), pc := s.pc + 1 }

/-- R161, with the carry by the common formula (never true of a nibble). -/
def Obligations.LdaRLoadsTheSlot : Prop :=
  SourceForm .lda parenthesised .ldaR .registerRef ∧ SourceForm .lda bare .ldaR .registerRef ∧
  ∀ (d : Nibble) (s : State), decode 0x2 d = .ldaR d ∧
    exec (.ldaR d) s = .next { s with
      a := memRead d s, z := decide (memRead d s = 0), n := decide (8 ≤ (memRead d s).toNat),
      c := decide (15 < (memRead d s).toNat), pc := s.pc + 1 }

/-- R162: the slot named by the data nibble then reads as the accumulator, every other address as before, and nothing
else but `PC` changes. -/
def Obligations.StaRStoresTheAccumulator : Prop :=
  SourceForm .sta parenthesised .staR .registerRef ∧ SourceForm .sta bare .staR .registerRef ∧
  ∀ (d : Nibble) (s : State), decode 0x3 d = .staR d ∧
    ∃ t, exec (.staR d) s = .next t ∧
      (∀ x, slotAddress d = x →
        Memory.read t.dmem x.toNat = s.a ∧ ∀ k, k ≠ x.toNat → Memory.read t.dmem k = Memory.read s.dmem k) ∧
      t = { s with dmem := t.dmem, pc := s.pc + 1 }

/-- R170. -/
def Obligations.AddAddsTheImmediate : Prop :=
  SourceForm .add hashed .add .immediate ∧
  ∀ (d : Nibble) (s : State), decode 0x4 d = .add d ∧
    exec (.add d) s = .next { s with
      a := s.a + d, z := decide (s.a + d = 0), n := decide (8 ≤ (s.a + d).toNat),
      c := decide (15 < s.a.toNat + d.toNat), pc := s.pc + 1 }

/-- R171. -/
def Obligations.AddRAddsTheSlot : Prop :=
  SourceForm .add parenthesised .addR .registerRef ∧ SourceForm .add bare .addR .registerRef ∧
  ∀ (d : Nibble) (s : State), decode 0x5 d = .addR d ∧
    exec (.addR d) s = .next { s with
      a := s.a + memRead d s, z := decide (s.a + memRead d s = 0), n := decide (8 ≤ (s.a + memRead d s).toNat),
      c := decide (15 < s.a.toNat + (memRead d s).toNat), pc := s.pc + 1 }

/-- R172 (the spec's decision D20: the carry is always cleared; log 8). -/
def Obligations.SubSubtractsTheImmediate : Prop :=
  SourceForm .sub hashed .sub .immediate ∧
  ∀ (d : Nibble) (s : State), decode 0x6 d = .sub d ∧
    exec (.sub d) s = .next { s with
      a := s.a - d, z := decide (s.a = d), n := decide (8 ≤ (s.a - d).toNat), c := false, pc := s.pc + 1 }

/-- R173 (the spec's decision D20; log 8). -/
def Obligations.SubRSubtractsTheSlot : Prop :=
  SourceForm .sub parenthesised .subR .registerRef ∧ SourceForm .sub bare .subR .registerRef ∧
  ∀ (d : Nibble) (s : State), decode 0x7 d = .subR d ∧
    exec (.subR d) s = .next { s with
      a := s.a - memRead d s, z := decide (s.a = memRead d s), n := decide (8 ≤ (s.a - memRead d s).toNat),
      c := false, pc := s.pc + 1 }

/-- R190. -/
def Obligations.JmpSetsThePc : Prop :=
  (∀ name : Token, classify .jmp (some name) = .ok (.jmp, .labelRef name)) ∧
  ∀ (d : Nibble) (s : State), decode 0x8 d = .jmp d ∧ (arm (.jmp d) s).xfer = true ∧
    exec (.jmp d) s = .next { s with pc := d }

/-- R191. -/
def Obligations.BrzBranchesOnZero : Prop :=
  SourceForm .brz hashed .brz .immediate ∧
  ∀ (d : Nibble) (s : State), decode 0x9 d = .brz d ∧ (arm (.brz d) s).xfer = s.z ∧
    exec (.brz d) s = .next { s with pc := if s.z = true then s.pc + d else s.pc + 1 }

/-- R192. -/
def Obligations.BrcBranchesOnCarry : Prop :=
  SourceForm .brc hashed .brc .immediate ∧
  ∀ (d : Nibble) (s : State), decode 0xA d = .brc d ∧ (arm (.brc d) s).xfer = s.c ∧
    exec (.brc d) s = .next { s with pc := if s.c = true then s.pc + d else s.pc + 1 }

/-- R193. -/
def Obligations.BrnBranchesOnNegative : Prop :=
  SourceForm .brn hashed .brn .immediate ∧
  ∀ (d : Nibble) (s : State), decode 0xB d = .brn d ∧ (arm (.brn d) s).xfer = s.n ∧
    exec (.brn d) s = .next { s with pc := if s.n = true then s.pc + d else s.pc + 1 }

/-- R147: an unassigned opcode logs one error-severity event, advances `PC` and changes nothing else. -/
def Obligations.UnassignedOpcodeIsLoggedNoOp : Prop :=
  ∀ (op d : Nibble) (s : State), 0xC ≤ op.toNat → decode op d = .unk op d ∧
    (arm (.unk op d) s).xfer = false ∧ (Event.unknownOpcode s.pc op).severity = .error ∧
    exec (.unk op d) s = .next { s with pc := s.pc + 1, log := s.log ++ [.unknownOpcode s.pc op] }

/-! ## Flags and arithmetic -/

/-- R25: `A <- SetFlags(r)`, and the `r` of each of the six instructions (that `SUB` and `SUB_R` subtract integers is
the spec's decision D20; log 8). -/
def Obligations.SetFlagsFormulas : Prop :=
  (∀ (r : Int) (s : State),
    accumulate r s = { s with
      a := mask4 r, z := decide (mask4 r = 0), n := decide (8 ≤ (mask4 r).toNat), c := decide (15 < r) } ∧
    ¬ ((accumulate r s).z = true ∧ (accumulate r s).n = true)) ∧
  ∀ (d : Nibble) (s : State),
    exec (.lda d) s = .next (advance s.pc ⟨accumulate d.toNat s, false⟩) ∧
    exec (.ldaR d) s = .next (advance s.pc ⟨accumulate (memRead d s).toNat s, false⟩) ∧
    exec (.add d) s = .next (advance s.pc ⟨accumulate (s.a.toNat + d.toNat) s, false⟩) ∧
    exec (.addR d) s = .next (advance s.pc ⟨accumulate (s.a.toNat + (memRead d s).toNat) s, false⟩) ∧
    exec (.sub d) s = .next (advance s.pc ⟨accumulate ((s.a.toNat : Int) - d.toNat) s, false⟩) ∧
    exec (.subR d) s = .next (advance s.pc ⟨accumulate ((s.a.toNat : Int) - (memRead d s).toNat) s, false⟩)

/-- R7 (for negative integers the spec's general-knowledge reading G1; log 9): the floor modulo, and unique. -/
def Obligations.MaskIsFloorModulo : Prop :=
  ∀ r : Int, ((mask4 r).toNat : Int) = r % 16 ∧ ∀ m : Nibble, (m.toNat : Int) % 16 = r % 16 → m = mask4 r

/-- R24, R198 (the rule's own inference; log 20): an instruction that is not one of the six leaves `A` and the three
flags as they were. -/
def Obligations.OnlySixInstructionsWriteAccAndFlags : Prop :=
  ∀ (i : Instr) (s t : State), writesAcc i = false → exec i s = .next t →
    t.a = s.a ∧ t.z = s.z ∧ t.n = s.n ∧ t.c = s.c

/-- R148, R27, R145: no instruction writes `IMEM`, `ICOUNT`, `RUNNING` or `DEBUG`, and none but `STA_R` writes a word
of `DMEM`. -/
def Obligations.WhatNoInstructionWrites : Prop :=
  ∀ (i : Instr) (s t : State), exec i s = .next t →
    t.imem = s.imem ∧ t.icount = s.icount ∧ t.running = s.running ∧ t.debug = s.debug ∧
    ((∀ d, i ≠ .staR d) → ∀ k, Memory.read t.dmem k = Memory.read s.dmem k)

/-- R85, R194: offset `16 - k` goes back `k` addresses, from the branch's own address, mod 16. -/
def Obligations.BackwardBranchWraps : Prop :=
  ∀ (pc0 : Nibble) (k : Nat), 1 ≤ k → k ≤ 15 →
    branchTarget pc0 (BitVec.ofNat 4 (16 - k)) = pc0 - BitVec.ofNat 4 k

/-! ## Memory -/

/-- R52, R55: a data write is read back, and changes no other cell of either memory. -/
def Obligations.MemoryPrimitives : Prop :=
  ∀ (d v e : Nibble) (s : State),
    memRead d (memWrite d v s) = v ∧ (e ≠ d → memRead e (memWrite d v s) = memRead e s) ∧
    memWrite d v s = { s with dmem := (memWrite d v s).dmem }

/-- R62: a store is seen by the very next fetch from its address, the opcode there is untouched, and every other fetch
is as before; the store at its own address included. -/
def Obligations.StoreIsSeenByTheNextFetch : Prop :=
  ∀ (d : Nibble) (s : State), s.icount ≠ 0 → fetchWord s.pc s = (0x3, d) →
    ∃ t, step s = .next t ∧ fetchWord d t = ((fetchWord d s).1, s.a) ∧
      ∀ x, x ≠ d → fetchWord x t = fetchWord x s

/-- R52, R50 (the canonical form is the model's, log 4): the memories are canonical at reset. -/
def Obligations.ResetMemoriesCanonical : Prop := MemoriesWf State.reset

/-- R52, R50 (the canonical form is the model's, log 4): every step keeps both memories canonical. -/
def Obligations.StepKeepsMemoriesCanonical : Prop :=
  ∀ s t : State, MemoriesWf s → step s = .next t → MemoriesWf t

/-- R20, R32, R35, R252 (with the model's canonical form, log 4): what the host reads determines all ten elements of the
state. -/
def Obligations.ObservationDeterminesState : Prop :=
  ∀ s t : State, MemoriesWf s → MemoriesWf t → observe s = observe t → t = { s with log := t.log }

/-! ## Invariants over all instructions -/

/-- R176, R273: the state at engine initialisation and the state after every Reset satisfy the flag invariant, with
`A` 0 and `Z` clear, so that `Z` does not say there that `A` is 0. -/
def Obligations.ResetFlagsDescribeAcc : Prop :=
  (FlagsDescribeAcc State.reset ∧ State.reset.a = 0 ∧ State.reset.z = false) ∧
  ∀ s : State, FlagsDescribeAcc (resetOp s) ∧ (resetOp s).a = 0 ∧ (resetOp s).z = false

/-- R176: every step keeps `N` equal to bit 3 of `A`, and `Z` set only when `A` is 0; and after one of the six
flag-writing instructions `Z` says exactly whether `A` is 0. -/
def Obligations.StepKeepsFlagsDescribeAcc : Prop :=
  ∀ s t : State, FlagsDescribeAcc s → step s = .next t →
    FlagsDescribeAcc t ∧
    (s.icount ≠ 0 → writesAcc (fetchInstr s) = true → (t.z = true ↔ t.a = 0) ∧ (t.n = true ↔ 8 ≤ t.a.toNat))

/-- R145: a cycle's effect on the CPU state, the words it stores and the events it logs depend only on `A`, `PC`, the
flags, the two nibbles at `PC` and the slot the data nibble names. -/
def Obligations.CycleDependsOnlyOnItsInputs : Prop :=
  ∀ s t : State, s.icount ≠ 0 → t.icount ≠ 0 → SameInputs s t →
    ∃ s' t' es, step s = .next s' ∧ step t = .next t' ∧
      s'.a = t'.a ∧ s'.pc = t'.pc ∧ s'.z = t'.z ∧ s'.n = t'.n ∧ s'.c = t'.c ∧
      s'.log = s.log ++ es ∧ t'.log = t.log ++ es ∧
      ∀ k, (Memory.read s'.dmem k = Memory.read s.dmem k ∧ Memory.read t'.dmem k = Memory.read t.dmem k) ∨
        Memory.read s'.dmem k = Memory.read t'.dmem k

/-- R8: diagnostics never feed back, in an `emit`, a step or a Run. -/
def Obligations.DiagnosticsNeverFeedBack : Prop :=
  (∀ (e : Event) (s : State), emit e s = { s with log := s.log ++ [e] }) ∧
  (∀ (s : State) (l : List Event), ∃ t es, step s = .next t ∧ t.log = s.log ++ es ∧
    step { s with log := l } = .next { t with log := l ++ es }) ∧
  (∀ (b : Option Nat) (s : State) (l : List Event) (o : RunOutcome) (t : State), RunReturns b s o t →
    ∃ es, t.log = s.log ++ es ∧ RunReturns b { s with log := l } o { t with log := l ++ es })

/-- R199: the four cases of a self-transfer, and that in each the cycle changes no state. -/
def Obligations.SelfTransferCases : Prop :=
  ∀ s : State,
    ((cycle s).selfTransfer = true ↔
      fetchInstr s = .jmp s.pc ∨ (fetchInstr s = .brz 0 ∧ s.z = true) ∨ (fetchInstr s = .brc 0 ∧ s.c = true) ∨
        (fetchInstr s = .brn 0 ∧ s.n = true)) ∧
    ((cycle s).selfTransfer = true → (cycle s).state = s)

/-! ## Run -/

/-- R218, R215, R216, R217 (the spec's decisions D17, D19, D22; log 3, 11): the state each outcome leaves. -/
def Obligations.RunOutcomeStates : Prop :=
  ∀ (b : Option Nat) (s t : State) (o : RunOutcome), RunReturns b s o t →
    match o with
    | .notLoaded => s.icount = 0 ∧ t = s
    | .ended => t.icount.val ≤ t.pc.toNat ∧ t.running = false ∧ t.debug = s.debug ∧
        t.log.getLast? = some (.programEnd t.pc)
    | .selfLoop => t.pc.toNat < t.icount.val ∧ t.running = false ∧ t.debug = false ∧
        (cycle t).selfTransfer = true ∧ t.log.getLast? = some (.selfLoop t.pc)
    | .budgetExceeded => t.pc.toNat < t.icount.val ∧ t.running = false ∧ t.debug = s.debug ∧
        ∃ m, b = some m ∧ t.log.getLast? = some (.budgetExceeded t.pc m)

/-- R217 (the spec's decision D17; log 11): a Run with a budget returns. -/
def Obligations.BudgetedRunReturns : Prop :=
  ∀ (b : Nat) (s : State), ∃ o t, runFuel (some b) (b + 1) s = some (o, t)

/-- R225, R217 (the budget is the spec's decision D17, Step's lack of a guard and of a range test its D18; log 11, 5):
what a Run leaves in `A`, `PC`, the flags and the memories is what some number of Steps leaves, at most the budget's. -/
def Obligations.RunIsStepsWithinBudget : Prop :=
  ∀ (b : Option Nat) (s t : State) (o : RunOutcome), RunReturns b s o t →
    ∃ k, SameArch t (stepN k s) ∧ (∀ m, b = some m → k ≤ m) ∧ (b = some k ∨ o ≠ .budgetExceeded)

/-- R225, R214, R215 (the order of the tests is the spec's decision D22; log 11): on loaded hardware, if no stop occurs
before the `k`-th head of the loop and `PC` is outside the program there, a Run without budget ends there. -/
def Obligations.RunEndsAtTheFirstHeadOutside : Prop :=
  ∀ (s : State) (k : Nat), s.icount ≠ 0 →
    (∀ j, j < k → outOfProgram (stepN j s) = false ∧ (cycle (stepN j s)).selfTransfer = false) →
    outOfProgram (stepN k s) = true → ∃ t, RunReturns none s .ended t ∧ SameArch t (stepN k s)

/-- R221: with 16 instructions a Run never returns `Ended`. -/
def Obligations.SixteenInstructionsNeverEnd : Prop :=
  ∀ (b : Option Nat) (s t : State), s.icount.val = 16 → ¬ RunReturns b s .ended t

/-- R223, R212, R213 (that no outcome latches is the spec's decision D24, the order of the tests its D22, what Step and
Run do at and above `ICOUNT` or unloaded its D5, D18, D27; log 22, 11, 5). After `Ended` a further Run ends at once.
After `SelfLoop` a further Run with a budget of at least one cycle, or none, executes the self-transfer once more and
stops the same way. After `BudgetExceeded` the first turn of such a further Run executes the cycle at `PC`. After each
of the three a Step executes the instruction at `PC`. After `NotLoaded` a further Run returns the same, and a Step does
nothing. -/
def Obligations.StoppedRunsResume : Prop :=
  (∀ (b b' : Option Nat) (s t : State), RunReturns b s .ended t →
    runFuel b' 1 t = some (.ended, { t with log := t.log ++ [.programEnd t.pc] })) ∧
  (∀ (b b' : Option Nat) (s t : State), RunReturns b s .selfLoop t → b' ≠ some 0 →
    runFuel b' 1 t = some (.selfLoop, { t with log := t.log ++ [.selfLoop t.pc] })) ∧
  (∀ (b b' : Option Nat) (s t : State), RunReturns b s .budgetExceeded t → b' ≠ some 0 →
    ∃ u, SameArch u (cycle t).state ∧
      (runTurn b' 0 (setRunning true t) = .goesOn 1 u ∨ runTurn b' 0 (setRunning true t) = .returns .selfLoop u)) ∧
  (∀ (b : Option Nat) (s t : State) (o : RunOutcome), RunReturns b s o t → o ≠ .notLoaded →
    step t = exec (fetchInstr t) t) ∧
  (∀ (b b' : Option Nat) (s t : State), RunReturns b s .notLoaded t →
    runFuel b' 1 t = some (.notLoaded, t) ∧ step t = .next t)

/-- R223, R217 (the spec's decisions D17, D24; log 11, 22): a Run that used up its budget continues where it stopped:
the two Runs together are one Run with the sum of the budgets. -/
def Obligations.BudgetsAdd : Prop :=
  ∀ (m k : Nat) (s t u : State) (o : RunOutcome),
    RunReturns (some m) s .budgetExceeded t → RunReturns (some k) t o u →
    ∃ u', RunReturns (some (m + k)) s o u' ∧ SameArch u u' ∧ u.icount = u'.icount ∧ u.running = u'.running ∧
      u.debug = u'.debug

/-- R222 (the order of the tests is the spec's decision D22; log 11): a Run without budget that revisits a complete
state at the head of its loop never returns. -/
def Obligations.RevisitedStateDiverges : Prop :=
  ∀ (s : State) (i j : Nat), s.icount ≠ 0 → i < j → SameArch (stepN i s) (stepN j s) →
    (∀ k, k < j → outOfProgram (stepN k s) = false ∧ (cycle (stepN k s)).selfTransfer = false) →
    RunDiverges none s

/-! ## Reset, Load and what the host can reach -/

/-- R33, R270 (the memories, `ICOUNT`, `RUNNING`, `DEBUG` by the spec's decisions D3, D4, D19; the empty log is the
model's choice; log 1, 2, 3, 10): the machine at engine initialisation. -/
def Obligations.PowerOnState : Prop :=
  State.reset.a = 0 ∧ State.reset.pc = 0 ∧ State.reset.z = false ∧ State.reset.n = false ∧ State.reset.c = false ∧
  (∀ k, Memory.read State.reset.imem k = 0 ∧ Memory.read State.reset.dmem k = 0) ∧ State.reset.icount = 0 ∧
  State.reset.running = false ∧ State.reset.debug = false ∧ State.reset.log = []

/-- R271, R272, R220: what Reset writes and keeps, and beside it DebugOn, which sets `DEBUG` and writes nothing else
(that Reset keeps `ICOUNT` is the spec's decision D4, DebugOn its D19, and that the log is kept is the model's choice;
log 2, 3, 10). -/
def Obligations.ResetClearsCpuStateOnly : Prop :=
  ∀ s : State,
    resetOp s =
      { a := 0, pc := 0, z := false, n := false, c := false, imem := s.imem, dmem := s.dmem, icount := s.icount,
        running := false, debug := false, log := s.log } ∧
    debugOn s =
      { a := s.a, pc := s.pc, z := s.z, n := s.n, c := s.c, imem := s.imem, dmem := s.dmem, icount := s.icount,
        running := s.running, debug := true, log := s.log }

/-- R120 to R125, R128: the image a Load leaves, and what it does not change (that `ICOUNT` is written with the image is
the spec's decision D4; that the log is kept, and that the encoder's fallback is there and never fires, rest on the
model's choices; log 2, 10, 17). -/
def Obligations.LoadWritesTheImage : Prop :=
  ∀ (p : Program) (s : State), HoldsImage p (load p s) ∧
    load p s = { s with imem := (load p s).imem, dmem := (load p s).dmem, icount := (load p s).icount }

/-- R122 (the spec's decision D26; log 17): an unrecognised mnemonic is written as `NOP`, with a warning. -/
def Obligations.EncoderFallsBackToNop : Prop :=
  ∀ (i : Nat) (name : Token), (∀ k, Kind.name k ≠ name) →
    opcodeNamed i name = (0x0, [.encoderFallback i]) ∧ (Event.encoderFallback i).severity = .warning

/-- R275, R271, R125, R128: Load and Reset commute, and lead to the launch state: the program's image with its
`ICOUNT`, and everything else 0 but the log (that Load writes `ICOUNT` and Reset keeps it is the spec's decision D4, and
that both keep the log is the model's choice; log 2, 10). -/
def Obligations.LoadAndResetCommute : Prop :=
  ∀ (p : Program) (s : State), load p (resetOp s) = resetOp (load p s) ∧ HoldsImage p (load p (resetOp s)) ∧
    load p (resetOp s) =
      { a := 0, pc := 0, z := false, n := false, c := false, imem := (load p (resetOp s)).imem,
        dmem := (load p (resetOp s)).dmem, icount := (load p (resetOp s)).icount, running := false, debug := false,
        log := s.log }

/-- R211, R128, R176, R219 (the initial memories are the spec's decision D3, `RUNNING`'s life cycle its D19, what a
failed build does its D6, and the canonical form is the model's; log 1, 3, 18, 4): the machine at engine initialisation
meets the invariant, every host operation and every build keeps it from any state that meets it, and so every state
the host can reach meets it. -/
def Obligations.HostReachableInvariant : Prop :=
  HostInv State.reset ∧
  (∀ (o : HostOp) (s t : State), HostInv s → HostStep o s t → HostInv t) ∧
  (∀ (src : List Char) (s : State), HostInv s → HostInv (build src s)) ∧
  ∀ s : State, HostReachable s → HostInv s

/-- R86, R128, R147 (that `IMEM` is 0 before the first Load is the spec's decision D3; log 1): no cycle from a state
the host can reach executes an unassigned opcode. -/
def Obligations.UnassignedOpcodeUnreachable : Prop :=
  ∀ s : State, HostReachable s → ∀ op d, fetchInstr s ≠ .unk op d

/-! ## The assembler -/

/-- R101 (the spec's decision D9; log 15): the pairs of mnemonic and operand form with no opcode are malformed, before
any number is parsed. -/
def Obligations.FormsWithoutOpcodeAreMalformed : Prop :=
  (∀ t, classify .sta (some (hashed t)) = .error .malformed) ∧
  (∀ t, classify .nop (some t) = .error .malformed) ∧
  (∀ m, m ≠ .nop → classify m none = .error .malformed) ∧
  (∀ m t, m = .brz ∨ m = .brc ∨ m = .brn → t.head? ≠ some '#' → classify m (some t) = .error .malformed)

/-- R127, R108 (which forms are accepted is the spec's decision D9, and where the 17th line fails its D15; log 15): a
successful, non-empty assembly is a sequence that Load is defined for. -/
def Obligations.SuccessfulAssemblyIsLoadable : Prop :=
  ∀ (src : List Char) (seq : List Node), (assemble src).result = .ok seq → seq ≠ [] → programOk seq = true

/-- R105, R92: every line yields one instruction, in source order, at the address of its position; only a `JMP`'s
operand is changed by the label table. -/
def Obligations.OneInstructionPerLine : Prop :=
  ∀ (src : List Char) (seq : List Node), (assemble src).result = .ok seq →
    seq.length = (sourceLines src).length ∧
    ∀ (i : Nat) (line : List Char), (sourceLines src)[i]? = some line →
      ∃ raw node : Node, readLine (tokens line) = .ok raw ∧ seq[i]? = some node ∧
        node.base = raw.base ∧ node.kind = raw.kind ∧ node.label = raw.label ∧
        (raw.kind ≠ .jmp → node.operand = raw.operand)

/-- R102, R106, R107, R98 (that the operand is always a label is the spec's decision D10; log 15): every `JMP` is
resolved to the one instruction whose line declares the label it names, declared before it or after it. -/
def Obligations.JumpsResolveToTheirLabels : Prop :=
  ∀ (src : List Char) (seq : List Node) (i : Nat) (line : List Char) (raw : Node) (name : LabelName),
    (assemble src).result = .ok seq → (sourceLines src)[i]? = some line → readLine (tokens line) = .ok raw →
    raw.operand = .labelRef name →
    ∃ (addr : Nat) (target : Node), seq[addr]? = some target ∧ target.label = some name ∧
      (∀ (addr' : Nat) (target' : Node), seq[addr']? = some target' → target'.label = some name → addr' = addr) ∧
      ∃ node : Node, seq[i]? = some node ∧ node.operand = .resolvedAddress addr

/-- R108 with R105: more than 16 non-empty lines never assemble, since each would be one instruction (that a line with
a label alone is none but an error is the spec's decision D7, where the 17th line fails its D15, what a line is its
D23; log 15, 14). -/
def Obligations.TooManyLinesFail : Prop :=
  ∀ src : List Char, 16 < (sourceLines src).length → ∃ e, (assemble src).result = .err e

/-- R109, R90 (stopping at the first error is the spec's decision D16; log 15): a failed assembly has the empty
sequence and exactly one error diagnostic, the last. -/
def Obligations.FailedAssemblyHasOneError : Prop :=
  ∀ (src : List Char) (e : AsmError), (assemble src).result = .err e →
    AsmResult.sequence (assemble src).result = [] ∧
    ∃ es, (assemble src).events = es ++ [AsmError.event e] ∧ (AsmError.event e).severity = .error ∧
      ∀ x ∈ es, x.severity = .info

/-- R126, R110 (the spec's decision D6; log 18): a failed or empty build changes nothing but the log. -/
def Obligations.FailedBuildLoadsNothing : Prop :=
  ∀ (src : List Char) (s : State), AsmResult.sequence (assemble src).result = [] →
    build src s = { s with log := s.log ++ (assemble src).events }

/-- R126, R127 (the spec's decision D6, and log entries are kept by the model's choice; log 18, 10): a successful,
non-empty build logs the diagnostics and Loads the sequence. -/
def Obligations.SuccessfulBuildLoads : Prop :=
  ∀ (src : List Char) (s : State) (seq : List Node), (assemble src).result = .ok seq → seq ≠ [] →
    ∃ p : Program, p.nodes = seq ∧ build src s = load p { s with log := s.log ++ (assemble src).events }

/-! ## Run, the self-loop guard -/

/-- R216, R214, R225 (the order of the tests is the spec's decision D22, the budget its D17, what the guard does to the
two control flags its D19; log 11, 3): on loaded hardware, if no stop occurs before the `k`-th head of the loop, and
there `PC` is inside the program, the budget is not used up and the cycle is a self-transfer, the guard fires: the Run
returns `SelfLoop`, with the state that `k` Steps leave. -/
def Obligations.RunStopsAtTheFirstSelfTransfer : Prop :=
  ∀ (b : Option Nat) (s : State) (k : Nat), s.icount ≠ 0 → (∀ m, b = some m → k < m) →
    (∀ j, j < k → outOfProgram (stepN j s) = false ∧ (cycle (stepN j s)).selfTransfer = false) →
    outOfProgram (stepN k s) = false → (cycle (stepN k s)).selfTransfer = true →
    ∃ t, RunReturns b s .selfLoop t ∧ SameArch t (stepN k s) ∧ t.running = false ∧ t.debug = false
end

