-- ==== Sys2Proof/Laws/Memory.lean ====
section
/-! SUPPORT. The laws of a memory: a read after a write, the canonical form, and that canonical memories with the same
words are the same data. -/

namespace Sys2Proof.Machine

theorem Memory.read_nil (k : Nat) : Memory.read [] k = Memory.unlisted := rfl

theorem Memory.read_cons (x : Cell) (m : Memory) (k : Nat) :
    Memory.read (x :: m) k = if x.1 = k then x.2 else Memory.read m k := rfl

/-- An address that no cell lists reads as `Memory.unlisted`. -/
theorem Memory.read_of_unlisted (m : Memory) (k : Nat) (h : ∀ x ∈ m, x.1 ≠ k) :
    Memory.read m k = Memory.unlisted := by
  induction m with
  | nil => rfl
  | cons x m ih =>
    rw [Memory.read_cons, if_neg (h x (by simp))]
    exact ih fun y hy => h y (List.mem_cons_of_mem x hy)

theorem Memory.erase_no_cell (m : Memory) (k : Nat) : ∀ x ∈ Memory.erase m k, x.1 ≠ k := by
  intro x hx
  simpa using (List.mem_filter.mp hx).2

theorem Memory.read_erase_other (m : Memory) (k j : Nat) (h : j ≠ k) :
    Memory.read (Memory.erase m k) j = Memory.read m j := by
  induction m with
  | nil => rfl
  | cons x m ih =>
    unfold Memory.erase at ih ⊢
    rw [List.filter_cons]
    by_cases hx : x.1 = k
    · rw [if_neg (by simpa using hx), ih, Memory.read_cons, if_neg (by omega)]
    · rw [if_pos (by simpa using hx), Memory.read_cons, Memory.read_cons, ih]

theorem Memory.mem_insert (m : Memory) (k : Nat) (v : Nibble) (x : Cell) :
    x ∈ Memory.insert m k v ↔ x = (k, v) ∨ x ∈ m := by
  induction m with
  | nil => simp [Memory.insert]
  | cons y m ih =>
    unfold Memory.insert
    split
    · simp
    · simp only [List.mem_cons, ih]; tauto

theorem Memory.read_insert_same (m : Memory) (k : Nat) (v : Nibble) (h : ∀ x ∈ m, x.1 ≠ k) :
    Memory.read (Memory.insert m k v) k = v := by
  induction m with
  | nil => simp [Memory.insert, Memory.read_cons]
  | cons y m ih =>
    unfold Memory.insert
    split
    · simp [Memory.read_cons]
    · rw [Memory.read_cons, if_neg (h y (by simp))]
      exact ih fun z hz => h z (List.mem_cons_of_mem y hz)

theorem Memory.read_insert_other (m : Memory) (k j : Nat) (v : Nibble) (h : j ≠ k) :
    Memory.read (Memory.insert m k v) j = Memory.read m j := by
  induction m with
  | nil => rw [Memory.insert, Memory.read_cons, if_neg (by simpa using h.symm)]
  | cons y m ih =>
    unfold Memory.insert
    split
    · rw [Memory.read_cons, if_neg (by simpa using h.symm)]
    · rw [Memory.read_cons, Memory.read_cons, ih]

/-- A read after a write to the same address gives the value written (20_memory.md R52). -/
theorem Memory.read_write_same (m : Memory) (k : Nat) (v : Nibble) :
    Memory.read (Memory.write m k v) k = v := by
  unfold Memory.write
  split
  · next h => rw [Memory.read_of_unlisted _ _ (Memory.erase_no_cell m k), h]
  · exact Memory.read_insert_same _ _ _ (Memory.erase_no_cell m k)

/-- A write leaves every other address alone (20_memory.md R52). -/
theorem Memory.read_write_other (m : Memory) (k j : Nat) (v : Nibble) (h : j ≠ k) :
    Memory.read (Memory.write m k v) j = Memory.read m j := by
  unfold Memory.write
  split
  · exact Memory.read_erase_other m k j h
  · rw [Memory.read_insert_other _ _ _ _ h, Memory.read_erase_other m k j h]

/-- The whole of what a write does to reads. -/
theorem Memory.read_write (m : Memory) (k j : Nat) (v : Nibble) :
    Memory.read (Memory.write m k v) j = if j = k then v else Memory.read m j := by
  split
  · next h => rw [h, Memory.read_write_same]
  · next h => exact Memory.read_write_other m k j v h

/-! ### The canonical form -/

theorem Memory.wf_nil : Memory.wf [] := ⟨List.Pairwise.nil, by simp⟩

theorem Memory.erase_wf (m : Memory) (k : Nat) (h : Memory.wf m) : Memory.wf (Memory.erase m k) :=
  ⟨h.1.filter _, fun x hx => h.2 x (List.mem_filter.mp hx).1⟩

theorem Memory.insert_wf (m : Memory) (k : Nat) (v : Nibble) (h : Memory.wf m) (hk : k < Config.depth)
    (hv : v ≠ Memory.unlisted) (hn : ∀ x ∈ m, x.1 ≠ k) : Memory.wf (Memory.insert m k v) := by
  refine ⟨?_, fun x hx => ?_⟩
  · replace h := h.1
    induction m with
    | nil => simp [Memory.insert]
    | cons y m ih =>
      have hy := List.pairwise_cons.mp h
      have hyk : y.1 ≠ k := hn y (by simp)
      unfold Memory.insert
      split
      · next hlt =>
        refine List.pairwise_cons.mpr ⟨fun z hz => ?_, h⟩
        rcases List.mem_cons.mp hz with rfl | hz
        · exact hlt
        · exact Nat.lt_trans hlt (hy.1 z hz)
      · next hge =>
        refine List.pairwise_cons.mpr ⟨fun z hz => ?_, ih (fun z hz => hn z (List.mem_cons_of_mem y hz)) hy.2⟩
        rcases (Memory.mem_insert m k v z).mp hz with rfl | hz
        · simp only at hyk ⊢; omega
        · exact hy.1 z hz
  · rcases (Memory.mem_insert m k v x).mp hx with rfl | hx
    · exact ⟨hk, hv⟩
    · exact h.2 x hx

/-- A write keeps the canonical form. -/
theorem Memory.write_wf (m : Memory) (k : Nat) (v : Nibble) (h : Memory.wf m) (hk : k < Config.depth) :
    Memory.wf (Memory.write m k v) := by
  unfold Memory.write
  split
  · exact Memory.erase_wf m k h
  · next hv => exact Memory.insert_wf _ k v (Memory.erase_wf m k h) hk hv (Memory.erase_no_cell m k)

/-- A canonical memory reads as unlisted outside the address space (20_memory.md R50). -/
theorem Memory.read_outside (m : Memory) (k : Nat) (h : Memory.wf m) (hk : Config.depth ≤ k) :
    Memory.read m k = Memory.unlisted :=
  Memory.read_of_unlisted m k fun x hx => by have := (h.2 x hx).1; omega

theorem Memory.wf_tail (x : Cell) (m : Memory) (h : Memory.wf (x :: m)) : Memory.wf m :=
  ⟨(List.pairwise_cons.mp h.1).2, fun y hy => h.2 y (List.mem_cons_of_mem x hy)⟩

/-- Below the first cell of a canonical memory nothing is listed. -/
theorem Memory.read_below (x : Cell) (m : Memory) (k : Nat) (h : Memory.wf (x :: m)) (hk : k ≤ x.1) :
    Memory.read m k = Memory.unlisted :=
  Memory.read_of_unlisted m k fun y hy => by have := (List.pairwise_cons.mp h.1).1 y hy; omega

/-- Canonical memories with the same words are the same data. -/
theorem Memory.ext_of_wf (m m' : Memory) (h : Memory.wf m) (h' : Memory.wf m')
    (hr : ∀ k, Memory.read m k = Memory.read m' k) : m = m' := by
  induction m generalizing m' with
  | nil =>
    cases m' with
    | nil => rfl
    | cons y m' =>
      have := hr y.1
      rw [Memory.read_nil, Memory.read_cons, if_pos rfl] at this
      exact absurd this.symm (h'.2 y (by simp)).2
  | cons x m ih =>
    cases m' with
    | nil =>
      have := hr x.1
      rw [Memory.read_nil, Memory.read_cons, if_pos rfl] at this
      exact absurd this (h.2 x (by simp)).2
    | cons y m' =>
      have hx := (h.2 x (by simp)).2
      have hy := (h'.2 y (by simp)).2
      have h1 := hr x.1
      have h2 := hr y.1
      simp only [Memory.read_cons, if_true] at h1 h2
      have hxy : x.1 = y.1 := by
        by_contra hne
        rcases Nat.lt_or_gt_of_ne hne with hlt | hgt
        · rw [if_neg (by omega), Memory.read_below y m' x.1 h' (by omega)] at h1
          exact hx h1
        · rw [if_neg (by omega), Memory.read_below x m y.1 h (by omega)] at h2
          exact hy h2.symm
      rw [if_pos hxy.symm] at h1
      have hcell : x = y := Prod.ext hxy h1
      subst hcell
      congr 1
      refine ih m' (Memory.wf_tail x m h) (Memory.wf_tail x m' h') fun k => ?_
      have := hr k
      simp only [Memory.read_cons] at this
      by_cases hk : x.1 = k
      · rw [Memory.read_below x m k h (by omega), Memory.read_below x m' k h' (by omega)]
      · simpa [hk] using this

end Sys2Proof.Machine
end

