-- ==== Sys2Proof/Laws/State.lean ====
section
/-! SUPPORT. What each update of State leaves in each field: one lemma per field per update, true by rfl (for the
advance, by its two cases). -/

namespace Sys2Proof.Machine

/-! ### `memWrite` -/

@[simp] theorem memWrite_a (d v : Nibble) (s : State) : (memWrite d v s).a = s.a := rfl

@[simp] theorem memWrite_pc (d v : Nibble) (s : State) : (memWrite d v s).pc = s.pc := rfl

@[simp] theorem memWrite_z (d v : Nibble) (s : State) : (memWrite d v s).z = s.z := rfl

@[simp] theorem memWrite_n (d v : Nibble) (s : State) : (memWrite d v s).n = s.n := rfl

@[simp] theorem memWrite_c (d v : Nibble) (s : State) : (memWrite d v s).c = s.c := rfl

@[simp] theorem memWrite_imem (d v : Nibble) (s : State) : (memWrite d v s).imem = s.imem := rfl

@[simp] theorem memWrite_dmem (d v : Nibble) (s : State) : (memWrite d v s).dmem = Memory.write s.dmem d.toNat v := rfl

@[simp] theorem memWrite_icount (d v : Nibble) (s : State) : (memWrite d v s).icount = s.icount := rfl

@[simp] theorem memWrite_running (d v : Nibble) (s : State) : (memWrite d v s).running = s.running := rfl

@[simp] theorem memWrite_debug (d v : Nibble) (s : State) : (memWrite d v s).debug = s.debug := rfl

@[simp] theorem memWrite_log (d v : Nibble) (s : State) : (memWrite d v s).log = s.log := rfl

/-! ### `emit` -/

@[simp] theorem emit_a (e : Event) (s : State) : (emit e s).a = s.a := rfl

@[simp] theorem emit_pc (e : Event) (s : State) : (emit e s).pc = s.pc := rfl

@[simp] theorem emit_z (e : Event) (s : State) : (emit e s).z = s.z := rfl

@[simp] theorem emit_n (e : Event) (s : State) : (emit e s).n = s.n := rfl

@[simp] theorem emit_c (e : Event) (s : State) : (emit e s).c = s.c := rfl

@[simp] theorem emit_imem (e : Event) (s : State) : (emit e s).imem = s.imem := rfl

@[simp] theorem emit_dmem (e : Event) (s : State) : (emit e s).dmem = s.dmem := rfl

@[simp] theorem emit_icount (e : Event) (s : State) : (emit e s).icount = s.icount := rfl

@[simp] theorem emit_running (e : Event) (s : State) : (emit e s).running = s.running := rfl

@[simp] theorem emit_debug (e : Event) (s : State) : (emit e s).debug = s.debug := rfl

@[simp] theorem emit_log (e : Event) (s : State) : (emit e s).log = s.log ++ [e] := rfl

/-! ### `setFlags` -/

@[simp] theorem setFlags_a (r : Int) (s : State) : (setFlags r s).a = s.a := rfl

@[simp] theorem setFlags_pc (r : Int) (s : State) : (setFlags r s).pc = s.pc := rfl

@[simp] theorem setFlags_z (r : Int) (s : State) : (setFlags r s).z = flagZ r := rfl

@[simp] theorem setFlags_n (r : Int) (s : State) : (setFlags r s).n = flagN r := rfl

@[simp] theorem setFlags_c (r : Int) (s : State) : (setFlags r s).c = flagC r := rfl

@[simp] theorem setFlags_imem (r : Int) (s : State) : (setFlags r s).imem = s.imem := rfl

@[simp] theorem setFlags_dmem (r : Int) (s : State) : (setFlags r s).dmem = s.dmem := rfl

@[simp] theorem setFlags_icount (r : Int) (s : State) : (setFlags r s).icount = s.icount := rfl

@[simp] theorem setFlags_running (r : Int) (s : State) : (setFlags r s).running = s.running := rfl

@[simp] theorem setFlags_debug (r : Int) (s : State) : (setFlags r s).debug = s.debug := rfl

@[simp] theorem setFlags_log (r : Int) (s : State) : (setFlags r s).log = s.log := rfl

/-! ### `accumulate` -/

@[simp] theorem accumulate_a (r : Int) (s : State) : (accumulate r s).a = mask4 r := rfl

@[simp] theorem accumulate_pc (r : Int) (s : State) : (accumulate r s).pc = s.pc := rfl

@[simp] theorem accumulate_z (r : Int) (s : State) : (accumulate r s).z = flagZ r := rfl

@[simp] theorem accumulate_n (r : Int) (s : State) : (accumulate r s).n = flagN r := rfl

@[simp] theorem accumulate_c (r : Int) (s : State) : (accumulate r s).c = flagC r := rfl

@[simp] theorem accumulate_imem (r : Int) (s : State) : (accumulate r s).imem = s.imem := rfl

@[simp] theorem accumulate_dmem (r : Int) (s : State) : (accumulate r s).dmem = s.dmem := rfl

@[simp] theorem accumulate_icount (r : Int) (s : State) : (accumulate r s).icount = s.icount := rfl

@[simp] theorem accumulate_running (r : Int) (s : State) : (accumulate r s).running = s.running := rfl

@[simp] theorem accumulate_debug (r : Int) (s : State) : (accumulate r s).debug = s.debug := rfl

@[simp] theorem accumulate_log (r : Int) (s : State) : (accumulate r s).log = s.log := rfl

/-! ### `transfer_state` -/

@[simp] theorem transfer_state_a (t : Nibble) (s : State) : (transfer t s).state.a = s.a := rfl

@[simp] theorem transfer_state_pc (t : Nibble) (s : State) : (transfer t s).state.pc = t := rfl

@[simp] theorem transfer_state_z (t : Nibble) (s : State) : (transfer t s).state.z = s.z := rfl

@[simp] theorem transfer_state_n (t : Nibble) (s : State) : (transfer t s).state.n = s.n := rfl

@[simp] theorem transfer_state_c (t : Nibble) (s : State) : (transfer t s).state.c = s.c := rfl

@[simp] theorem transfer_state_imem (t : Nibble) (s : State) : (transfer t s).state.imem = s.imem := rfl

@[simp] theorem transfer_state_dmem (t : Nibble) (s : State) : (transfer t s).state.dmem = s.dmem := rfl

@[simp] theorem transfer_state_icount (t : Nibble) (s : State) : (transfer t s).state.icount = s.icount := rfl

@[simp] theorem transfer_state_running (t : Nibble) (s : State) : (transfer t s).state.running = s.running := rfl

@[simp] theorem transfer_state_debug (t : Nibble) (s : State) : (transfer t s).state.debug = s.debug := rfl

@[simp] theorem transfer_state_log (t : Nibble) (s : State) : (transfer t s).state.log = s.log := rfl

/-! ### `load` -/

@[simp] theorem load_a (p : Program) (s : State) : (load p s).a = s.a := rfl

@[simp] theorem load_pc (p : Program) (s : State) : (load p s).pc = s.pc := rfl

@[simp] theorem load_z (p : Program) (s : State) : (load p s).z = s.z := rfl

@[simp] theorem load_n (p : Program) (s : State) : (load p s).n = s.n := rfl

@[simp] theorem load_c (p : Program) (s : State) : (load p s).c = s.c := rfl

@[simp] theorem load_imem (p : Program) (s : State) : (load p s).imem = (imageOf p.nodes).imem := rfl

@[simp] theorem load_dmem (p : Program) (s : State) : (load p s).dmem = (imageOf p.nodes).dmem := rfl

@[simp] theorem load_icount (p : Program) (s : State) : (load p s).icount = Fin.ofNat 17 p.nodes.length := rfl

@[simp] theorem load_running (p : Program) (s : State) : (load p s).running = s.running := rfl

@[simp] theorem load_debug (p : Program) (s : State) : (load p s).debug = s.debug := rfl

@[simp] theorem load_log (p : Program) (s : State) : (load p s).log = s.log ++ (imageOf p.nodes).events := rfl

/-! ### `observe` -/

@[simp] theorem observe_a (s : State) : (observe s).a = s.a := rfl

@[simp] theorem observe_pc (s : State) : (observe s).pc = s.pc := rfl

@[simp] theorem observe_z (s : State) : (observe s).z = s.z := rfl

@[simp] theorem observe_n (s : State) : (observe s).n = s.n := rfl

@[simp] theorem observe_c (s : State) : (observe s).c = s.c := rfl

@[simp] theorem observe_icount (s : State) : (observe s).icount = s.icount := rfl

@[simp] theorem observe_running (s : State) : (observe s).running = s.running := rfl

@[simp] theorem observe_debug (s : State) : (observe s).debug = s.debug := rfl

@[simp] theorem observe_imem (s : State) : (observe s).imem = Memory.words s.imem := rfl

@[simp] theorem observe_dmem (s : State) : (observe s).dmem = Memory.words s.dmem := rfl

/-! ### `resetOp` -/

@[simp] theorem resetOp_a (s : State) : (resetOp s).a = 0 := rfl

@[simp] theorem resetOp_pc (s : State) : (resetOp s).pc = 0 := rfl

@[simp] theorem resetOp_z (s : State) : (resetOp s).z = false := rfl

@[simp] theorem resetOp_n (s : State) : (resetOp s).n = false := rfl

@[simp] theorem resetOp_c (s : State) : (resetOp s).c = false := rfl

@[simp] theorem resetOp_imem (s : State) : (resetOp s).imem = s.imem := rfl

@[simp] theorem resetOp_dmem (s : State) : (resetOp s).dmem = s.dmem := rfl

@[simp] theorem resetOp_icount (s : State) : (resetOp s).icount = s.icount := rfl

@[simp] theorem resetOp_running (s : State) : (resetOp s).running = false := rfl

@[simp] theorem resetOp_debug (s : State) : (resetOp s).debug = false := rfl

@[simp] theorem resetOp_log (s : State) : (resetOp s).log = s.log := rfl

/-! ### `debugOn` -/

@[simp] theorem debugOn_a (s : State) : (debugOn s).a = s.a := rfl

@[simp] theorem debugOn_pc (s : State) : (debugOn s).pc = s.pc := rfl

@[simp] theorem debugOn_z (s : State) : (debugOn s).z = s.z := rfl

@[simp] theorem debugOn_n (s : State) : (debugOn s).n = s.n := rfl

@[simp] theorem debugOn_c (s : State) : (debugOn s).c = s.c := rfl

@[simp] theorem debugOn_imem (s : State) : (debugOn s).imem = s.imem := rfl

@[simp] theorem debugOn_dmem (s : State) : (debugOn s).dmem = s.dmem := rfl

@[simp] theorem debugOn_icount (s : State) : (debugOn s).icount = s.icount := rfl

@[simp] theorem debugOn_running (s : State) : (debugOn s).running = s.running := rfl

@[simp] theorem debugOn_debug (s : State) : (debugOn s).debug = true := rfl

@[simp] theorem debugOn_log (s : State) : (debugOn s).log = s.log := rfl

/-! ### `setRunning` -/

@[simp] theorem setRunning_a (b : Bool) (s : State) : (setRunning b s).a = s.a := rfl

@[simp] theorem setRunning_pc (b : Bool) (s : State) : (setRunning b s).pc = s.pc := rfl

@[simp] theorem setRunning_z (b : Bool) (s : State) : (setRunning b s).z = s.z := rfl

@[simp] theorem setRunning_n (b : Bool) (s : State) : (setRunning b s).n = s.n := rfl

@[simp] theorem setRunning_c (b : Bool) (s : State) : (setRunning b s).c = s.c := rfl

@[simp] theorem setRunning_imem (b : Bool) (s : State) : (setRunning b s).imem = s.imem := rfl

@[simp] theorem setRunning_dmem (b : Bool) (s : State) : (setRunning b s).dmem = s.dmem := rfl

@[simp] theorem setRunning_icount (b : Bool) (s : State) : (setRunning b s).icount = s.icount := rfl

@[simp] theorem setRunning_running (b : Bool) (s : State) : (setRunning b s).running = b := rfl

@[simp] theorem setRunning_debug (b : Bool) (s : State) : (setRunning b s).debug = s.debug := rfl

@[simp] theorem setRunning_log (b : Bool) (s : State) : (setRunning b s).log = s.log := rfl

/-! ### `clearDebug` -/

@[simp] theorem clearDebug_a (s : State) : (clearDebug s).a = s.a := rfl

@[simp] theorem clearDebug_pc (s : State) : (clearDebug s).pc = s.pc := rfl

@[simp] theorem clearDebug_z (s : State) : (clearDebug s).z = s.z := rfl

@[simp] theorem clearDebug_n (s : State) : (clearDebug s).n = s.n := rfl

@[simp] theorem clearDebug_c (s : State) : (clearDebug s).c = s.c := rfl

@[simp] theorem clearDebug_imem (s : State) : (clearDebug s).imem = s.imem := rfl

@[simp] theorem clearDebug_dmem (s : State) : (clearDebug s).dmem = s.dmem := rfl

@[simp] theorem clearDebug_icount (s : State) : (clearDebug s).icount = s.icount := rfl

@[simp] theorem clearDebug_running (s : State) : (clearDebug s).running = s.running := rfl

@[simp] theorem clearDebug_debug (s : State) : (clearDebug s).debug = false := rfl

@[simp] theorem clearDebug_log (s : State) : (clearDebug s).log = s.log := rfl

/-! ### `stopRun` -/

@[simp] theorem stopRun_a (e : Event) (s : State) : (stopRun e s).a = s.a := rfl

@[simp] theorem stopRun_pc (e : Event) (s : State) : (stopRun e s).pc = s.pc := rfl

@[simp] theorem stopRun_z (e : Event) (s : State) : (stopRun e s).z = s.z := rfl

@[simp] theorem stopRun_n (e : Event) (s : State) : (stopRun e s).n = s.n := rfl

@[simp] theorem stopRun_c (e : Event) (s : State) : (stopRun e s).c = s.c := rfl

@[simp] theorem stopRun_imem (e : Event) (s : State) : (stopRun e s).imem = s.imem := rfl

@[simp] theorem stopRun_dmem (e : Event) (s : State) : (stopRun e s).dmem = s.dmem := rfl

@[simp] theorem stopRun_icount (e : Event) (s : State) : (stopRun e s).icount = s.icount := rfl

@[simp] theorem stopRun_running (e : Event) (s : State) : (stopRun e s).running = false := rfl

@[simp] theorem stopRun_debug (e : Event) (s : State) : (stopRun e s).debug = s.debug := rfl

@[simp] theorem stopRun_log (e : Event) (s : State) : (stopRun e s).log = s.log ++ [e] := rfl

/-! ### `noTransfer`, `transfer`: the transient -/

@[simp] theorem noTransfer_state (s : State) : (noTransfer s).state = s := rfl

@[simp] theorem noTransfer_xfer (s : State) : (noTransfer s).xfer = false := rfl

@[simp] theorem transfer_xfer (t : Nibble) (s : State) : (transfer t s).xfer = true := rfl

/-! ### `advance` -/

@[simp] theorem advance_a (pc0 : Nibble) (e : Executed) : (advance pc0 e).a = e.state.a := by
  unfold advance; split <;> rfl

theorem advance_pc (pc0 : Nibble) (e : Executed) :
    (advance pc0 e).pc = if e.xfer then e.state.pc else mask4 (pc0.toNat + 1) := by
  unfold advance; split <;> rfl

@[simp] theorem advance_z (pc0 : Nibble) (e : Executed) : (advance pc0 e).z = e.state.z := by
  unfold advance; split <;> rfl

@[simp] theorem advance_n (pc0 : Nibble) (e : Executed) : (advance pc0 e).n = e.state.n := by
  unfold advance; split <;> rfl

@[simp] theorem advance_c (pc0 : Nibble) (e : Executed) : (advance pc0 e).c = e.state.c := by
  unfold advance; split <;> rfl

@[simp] theorem advance_imem (pc0 : Nibble) (e : Executed) : (advance pc0 e).imem = e.state.imem := by
  unfold advance; split <;> rfl

@[simp] theorem advance_dmem (pc0 : Nibble) (e : Executed) : (advance pc0 e).dmem = e.state.dmem := by
  unfold advance; split <;> rfl

@[simp] theorem advance_icount (pc0 : Nibble) (e : Executed) : (advance pc0 e).icount = e.state.icount := by
  unfold advance; split <;> rfl

@[simp] theorem advance_running (pc0 : Nibble) (e : Executed) : (advance pc0 e).running = e.state.running := by
  unfold advance; split <;> rfl

@[simp] theorem advance_debug (pc0 : Nibble) (e : Executed) : (advance pc0 e).debug = e.state.debug := by
  unfold advance; split <;> rfl

@[simp] theorem advance_log (pc0 : Nibble) (e : Executed) : (advance pc0 e).log = e.state.log := by
  unfold advance; split <;> rfl

end Sys2Proof.Machine
end

