-- ==== Sys2Proof/Laws/Ops.lean ====
section
/-! SUPPORT. What each shared operation can do, said once. -/

namespace Sys2Proof.Machine

/-! ### Masking -/

/-- `mask4` is the floor modulo (00_scope.md R7). -/
theorem mask4_toInt (r : Int) : ((mask4 r).toNat : Int) = r % 16 := by
  unfold mask4
  rw [BitVec.toNat_ofInt]
  have : (0 : Int) ≤ r % 16 := Int.emod_nonneg r (by decide)
  norm_num
  omega

theorem mask4_natCast (k : Nat) : mask4 k = BitVec.ofNat 4 k := by
  apply BitVec.eq_of_toNat_eq
  have := mask4_toInt (k : Int)
  rw [BitVec.toNat_ofNat]
  omega

theorem mask4_nibble (d : Nibble) : mask4 d.toNat = d := by
  rw [mask4_natCast]; simp

theorem mask4_add (x y : Nibble) : mask4 (x.toNat + y.toNat) = x + y := by
  apply BitVec.eq_of_toNat_eq
  have := mask4_toInt ((x.toNat : Int) + y.toNat)
  rw [BitVec.toNat_add]
  omega

theorem mask4_succ (x : Nibble) : mask4 (x.toNat + 1) = x + 1 := mask4_add x 1

theorem mask4_sub (x y : Nibble) : mask4 (x.toNat + -(y.toNat : Int)) = x - y := by
  apply BitVec.eq_of_toNat_eq
  have := mask4_toInt ((x.toNat : Int) + -(y.toNat : Int))
  have := x.isLt
  have := y.isLt
  rw [BitVec.toNat_sub]
  omega

/-! ### Memory primitives -/

/-- `MemRead` after `MemWrite` (20_memory.md R52). -/
theorem memRead_memWrite (d v e : Nibble) (s : State) :
    memRead e (memWrite d v s) = if e = d then v else memRead e s := by
  unfold memRead
  rw [memWrite_dmem, Memory.read_write]
  by_cases h : e = d
  · simp [h]
  · rw [if_neg h, if_neg fun hn => h (BitVec.eq_of_toNat_eq hn)]

/-! ### Cycle: arm, advance, meaning -/

/-- The advance without a control transfer. -/
theorem advance_noTransfer (pc0 : Nibble) (s : State) : advance pc0 (noTransfer s) = { s with pc := pc0 + 1 } := by
  simp [advance, noTransfer, mask4_succ]

/-- The advance after a control transfer. -/
theorem advance_transfer (pc0 t : Nibble) (s : State) : advance pc0 (transfer t s) = { s with pc := t } := rfl

theorem branchTarget_eq (pc0 d : Nibble) : branchTarget pc0 d = pc0 + d := mask4_add pc0 d

theorem jumpTarget_eq (d : Nibble) : jumpTarget d = d := mask4_nibble d

/-- The hardware is loaded exactly when `ICOUNT` is not 0 (44_system_run_control.md R212). -/
theorem loaded_iff (s : State) : loaded s = true ↔ s.icount ≠ 0 := by simp [loaded]

end Sys2Proof.Machine
end

