-- ==== Sys2Proof/Laws/PerInstr.lean ====
section
/-! SUPPORT. Statements about every instruction, one lemma per constructor of Instr. -/

namespace Sys2Proof.Laws

/-- The `match` and `mask` of an instruction's row in spec/opcode_table.json. -/
def tableRow : Instr → Nat × Nat
  | .nop _ => (0x00, 0xF0)
  | .lda _ => (0x10, 0xF0)
  | .ldaR _ => (0x20, 0xF0)
  | .staR _ => (0x30, 0xF0)
  | .add _ => (0x40, 0xF0)
  | .addR _ => (0x50, 0xF0)
  | .sub _ => (0x60, 0xF0)
  | .subR _ => (0x70, 0xF0)
  | .jmp _ => (0x80, 0xF0)
  | .brz _ => (0x90, 0xF0)
  | .brc _ => (0xA0, 0xF0)
  | .brn _ => (0xB0, 0xF0)
  | .unk _ _ => (0xC0, 0xC0)

/-- The encoding of a well-formed instruction, presented in 8 bits, carries its table row's fixed bits, and its low
nibble is the data nibble. -/
def MatchesTable.Statement (i : Instr) : Prop :=
  i.wellFormed = true → presentation (encode i) &&& (tableRow i).2 = (tableRow i).1 ∧
    dataNibble (presentation (encode i)) = (encode i).2

theorem MatchesTable.nop (d : Nibble) : MatchesTable.Statement (.nop d) := by
  unfold MatchesTable.Statement; revert d; decide
theorem MatchesTable.lda (d : Nibble) : MatchesTable.Statement (.lda d) := by
  unfold MatchesTable.Statement; revert d; decide
theorem MatchesTable.ldaR (d : Nibble) : MatchesTable.Statement (.ldaR d) := by
  unfold MatchesTable.Statement; revert d; decide
theorem MatchesTable.staR (d : Nibble) : MatchesTable.Statement (.staR d) := by
  unfold MatchesTable.Statement; revert d; decide
theorem MatchesTable.add (d : Nibble) : MatchesTable.Statement (.add d) := by
  unfold MatchesTable.Statement; revert d; decide
theorem MatchesTable.addR (d : Nibble) : MatchesTable.Statement (.addR d) := by
  unfold MatchesTable.Statement; revert d; decide
theorem MatchesTable.sub (d : Nibble) : MatchesTable.Statement (.sub d) := by
  unfold MatchesTable.Statement; revert d; decide
theorem MatchesTable.subR (d : Nibble) : MatchesTable.Statement (.subR d) := by
  unfold MatchesTable.Statement; revert d; decide
theorem MatchesTable.jmp (d : Nibble) : MatchesTable.Statement (.jmp d) := by
  unfold MatchesTable.Statement; revert d; decide
theorem MatchesTable.brz (d : Nibble) : MatchesTable.Statement (.brz d) := by
  unfold MatchesTable.Statement; revert d; decide
theorem MatchesTable.brc (d : Nibble) : MatchesTable.Statement (.brc d) := by
  unfold MatchesTable.Statement; revert d; decide
theorem MatchesTable.brn (d : Nibble) : MatchesTable.Statement (.brn d) := by
  unfold MatchesTable.Statement; revert d; decide
theorem MatchesTable.unk (op d : Nibble) : MatchesTable.Statement (.unk op d) := by
  unfold MatchesTable.Statement; revert op d; decide

end Sys2Proof.Laws
end

