-- ==== Sys2Proof/Laws/Step.lean ====
section
/-! SUPPORT. A meaning is its arm of the cycle followed by the advance; a step is the host's Step. -/

namespace Sys2Proof.Machine

/-- Every meaning is its arm of step 3 and then the advance (40_cycle.md R140). -/
theorem exec_eq_arm (i : Instr) (s : State) : exec i s = .next (advance s.pc (arm i s)) := by
  cases i <;> rfl

/-- A step is the host's Step; it always answers a next state (40_cycle.md R145). -/
theorem step_eq_stepOp (s : State) : step s = .next (stepOp s) := by
  unfold step stepOp
  split
  · exact exec_eq_arm _ s
  · rfl

/-- The flag a branch tests, for the branches; none for the other instructions. -/
theorem branchIf_state (flag : Bool) (d : Nibble) (s : State) :
    (branchIf flag d s).state = { s with pc := if flag then branchTarget s.pc d else s.pc } := by
  cases flag <;> rfl

theorem branchIf_xfer (flag : Bool) (d : Nibble) (s : State) : (branchIf flag d s).xfer = flag := by
  cases flag <;> rfl

/-- What no arm writes: `IMEM`, `ICOUNT`, `RUNNING`, `DEBUG` (40_cycle.md R148). -/
theorem arm_keeps (i : Instr) (s : State) :
    (arm i s).state.imem = s.imem ∧ (arm i s).state.icount = s.icount ∧
      (arm i s).state.running = s.running ∧ (arm i s).state.debug = s.debug := by
  cases i <;> simp [arm, armNop, armLda, armLdaR, armStaR, armAdd, armAddR, armSub, armSubR, armJmp, armBrz, armBrc,
    armBrn, armUnk, branchIf_state]

/-- A cycle's next `PC` (40_cycle.md R144). -/
theorem cycle_pc0 (s : State) : (cycle s).pc0 = s.pc := rfl

end Sys2Proof.Machine
end

