-- ==== Sys2Proof/Laws/Run.lean ====
section
/-! SUPPORT. What one turn of Run's loop can do. -/

namespace Sys2Proof.Machine

/-- The four things a turn of Run's loop can do (44_system_run_control.md R214). -/
theorem runTurn_cases (b : Option Nat) (n : Nat) (s : State) :
    (outOfProgram s = true ∧
      runTurn b n s = .returns .ended (stopRun (.programEnd s.pc) s)) ∨
    (outOfProgram s = false ∧ b = some n ∧
      runTurn b n s = .returns .budgetExceeded (stopRun (.budgetExceeded s.pc n) s)) ∨
    (outOfProgram s = false ∧ b ≠ some n ∧ (cycle s).selfTransfer = true ∧
      runTurn b n s =
        .returns .selfLoop (clearDebug (stopRun (.selfLoop s.pc) (cycle s).state))) ∨
    (outOfProgram s = false ∧ b ≠ some n ∧ (cycle s).selfTransfer = false ∧
      runTurn b n s = .goesOn (n + 1) (cycle s).state) := by
  unfold runTurn
  by_cases h1 : outOfProgram s = true
  · simp [h1]
  · by_cases h2 : b = some n
    · simp [h1, h2]
    · by_cases h3 : (cycle s).selfTransfer = true <;> simp [h1, h2, h3]

theorem runLoop_zero (b : Option Nat) (n : Nat) (s : State) : runLoop b 0 n s = none := rfl

theorem runLoop_succ (b : Option Nat) (f n : Nat) (s : State) :
    runLoop b (f + 1) n s =
      match runTurn b n s with
      | .returns o t => some (o, t)
      | .goesOn m t => runLoop b f m t := rfl

/-- More fuel does not change what a Run returns. -/
theorem runLoop_more_fuel (b : Option Nat) (f g n : Nat) (s : State) (r : RunOutcome × State) (h : f ≤ g)
    (hr : runLoop b f n s = some r) : runLoop b g n s = some r := by
  induction f generalizing g n s with
  | zero => simp [runLoop_zero] at hr
  | succ f ih =>
    obtain ⟨g, rfl⟩ : ∃ g', g = g' + 1 := ⟨g - 1, by omega⟩
    rw [runLoop_succ] at hr ⊢
    cases ht : runTurn b n s with
    | returns o t => simpa [ht] using hr
    | goesOn m t =>
      simp only [ht] at hr ⊢
      exact ih g m t (by omega) hr

end Sys2Proof.Machine
end

