-- ==== Sys2Proof/Tests/Slice0.lean ====
section
/-! SUPPORT. Tests of the model: decoding of written-out words, one-step vectors of spec/95_test_vectors.md (their
numbers stand in the docstrings), the smoke tests of WellFormed, and a witness for the hypotheses of each statement. -/

namespace Sys2Proof.Tests

open Sys2Proof Sys2Proof.Machine

/-! ### Helpers -/

/-- A loaded state with the instruction `op d` at `pc`, after the data cells `cells` are written. -/
def small (a pc : Nibble) (z n c : Bool) (op d : Nibble) (cells : List Cell) : State :=
  { State.reset with
    a := a, pc := pc, z := z, n := n, c := c, icount := 1
    imem := Memory.write [] pc.toNat op
    dmem := Memory.write (cells.foldl (fun m x => Memory.write m x.1 x.2) []) pc.toNat d }

/-- The next state of an outcome, if it is one. -/
def nextOf (o : Host.Outcome State Fault Refusal) : Option State :=
  match o with
  | .next t => some t
  | .fault _ => none
  | .refused _ => none

/-- The CPU state after one step. -/
def cpuAfter (s : State) : Option (Nibble × Nibble × Bool × Bool × Bool) :=
  (nextOf (step s)).map fun t => (t.a, t.pc, t.z, t.n, t.c)

/-- The data word at `k` after one step. -/
def wordAfter (s : State) (k : Nat) : Option Nibble := (nextOf (step s)).map fun t => Memory.read t.dmem k

/-! ### Decoding: one word for each constructor, written out from the encoding of 30_encoding.md R82, R86 -/

theorem test_decode_nop : decode 0b0000 0b1001 = .nop 9 := by decide
theorem test_decode_lda : decode 0b0001 0b0001 = .lda 1 := by decide
theorem test_decode_ldaR : decode 0b0010 0b1111 = .ldaR 15 := by decide
theorem test_decode_staR : decode 0b0011 0b1111 = .staR 15 := by decide
theorem test_decode_add : decode 0b0100 0b0010 = .add 2 := by decide
theorem test_decode_addR : decode 0b0101 0b1110 = .addR 14 := by decide
theorem test_decode_sub : decode 0b0110 0b0001 = .sub 1 := by decide
theorem test_decode_subR : decode 0b0111 0b1101 = .subR 13 := by decide
theorem test_decode_jmp : decode 0b1000 0b0001 = .jmp 1 := by decide
theorem test_decode_brz : decode 0b1001 0b0010 = .brz 2 := by decide
theorem test_decode_brc : decode 0b1010 0b0101 = .brc 5 := by decide
theorem test_decode_brn : decode 0b1011 0b0010 = .brn 2 := by decide
theorem test_decode_unk : decode 0b1110 0b0111 = .unk 14 7 := by decide

/-- The 8-bit presentation, opcode nibble high (R129: `STA 15` is 0x3F). -/
theorem test_decodeTableWord : decodeTableWord 8 0x3F = some (.staR 15) := by decide

/-! ### WellFormed: an ill-formed term for each check -/

theorem test_wellFormed_refuses_assigned_unk : (Instr.unk 0xB 0).wellFormed = false := by decide
theorem test_wellFormed_accepts_unassigned : (Instr.unk 0xC 0).wellFormed = true := by decide
theorem test_loadable_refuses_label : Node.loadable ⟨.jmp, .jmp, .labelRef ['x'], none⟩ = false := by decide
theorem test_loadable_refuses_far_address : Node.loadable ⟨.jmp, .jmp, .resolvedAddress 16, none⟩ = false := by decide
theorem test_loadable_refuses_wrong_kind : Node.loadable ⟨.sta, .lda, .immediate 3, none⟩ = false := by decide
theorem test_programOk_refuses_empty : programOk [] = false := by decide
theorem test_programOk_refuses_seventeen :
    programOk (List.replicate 17 ⟨.nop, .nop, .none, none⟩) = false := by decide

/-! ### One step of each instruction (95_test_vectors.md section 2) -/

/-- T1. -/
theorem test_nop : cpuAfter (small 5 3 false false true 0 0 []) = some (5, 4, false, false, true) := by decide
/-- T3: the advance wraps. -/
theorem test_nop_wraps : cpuAfter (small 5 15 false false true 0 0 []) = some (5, 0, false, false, true) := by decide
/-- T10. -/
theorem test_lda_zero : cpuAfter (small 9 0 false true true 1 0 []) = some (0, 1, true, false, false) := by decide
/-- T14. -/
theorem test_lda_negative : cpuAfter (small 0 0 false false true 1 15 []) = some (15, 1, false, true, false) := by decide
/-- T15. -/
theorem test_ldaR : cpuAfter (small 1 2 false false false 2 15 [(15, 10)]) = some (10, 3, false, true, false) := by decide
/-- T17: its own operand. -/
theorem test_ldaR_own : cpuAfter (small 0 5 false false false 2 5 []) = some (5, 6, false, false, false) := by decide
/-- T18. -/
theorem test_staR : wordAfter (small 7 1 false false true 3 2 [(2, 1)]) 2 = some 7 := by decide
/-- T20: its own operand; the store of 0 leaves `Z` alone. -/
theorem test_staR_own : wordAfter (small 0 15 false false false 3 15 []) 15 = some 0 ∧
    cpuAfter (small 0 15 false false false 3 15 []) = some (0, 0, false, false, false) := by decide
/-- T37. -/
theorem test_add_carry : cpuAfter (small 12 1 false false false 4 9 []) = some (5, 2, false, false, true) := by decide
/-- T34. -/
theorem test_add_zero : cpuAfter (small 15 0 false false false 4 1 []) = some (0, 1, true, false, true) := by decide
/-- R171's example. -/
theorem test_addR : cpuAfter (small 9 3 false false false 5 14 [(14, 3)]) = some (12, 4, false, true, false) := by decide
/-- T38. -/
theorem test_addR_largest :
    cpuAfter (small 15 3 false false false 5 14 [(14, 15)]) = some (14, 4, false, true, true) := by decide
/-- T43 with `C` set before. -/
theorem test_sub_borrow : cpuAfter (small 5 4 false false true 6 6 []) = some (15, 5, false, true, false) := by decide
/-- T45: a borrow with `N` clear. -/
theorem test_sub_all : cpuAfter (small 0 4 false false false 6 15 []) = some (1, 5, false, false, false) := by decide
/-- R173's example. -/
theorem test_subR : cpuAfter (small 3 0 false false false 7 13 [(13, 3)]) = some (0, 1, true, false, false) := by decide
/-- T46. -/
theorem test_subR_negative :
    cpuAfter (small 15 0 false false false 7 13 [(13, 1)]) = some (14, 1, false, true, false) := by decide
/-- T60. -/
theorem test_jmp : cpuAfter (small 0 5 false false false 8 1 []) = some (0, 1, false, false, false) := by decide
/-- T61: to itself. -/
theorem test_jmp_self : (cycle (small 0 0 false false false 8 0 [])).selfTransfer = true := by decide
/-- T63. -/
theorem test_brz_taken : cpuAfter (small 1 2 true false false 9 2 []) = some (1, 4, true, false, false) := by decide
/-- T72: untaken with offset 0. -/
theorem test_brz_untaken : cpuAfter (small 1 1 false true true 9 0 []) = some (1, 2, false, true, true) := by decide
/-- T67: forward, wraps. -/
theorem test_brc_taken : cpuAfter (small 1 14 false false true 10 5 []) = some (1, 3, false, false, true) := by decide
/-- T74: `BRC` reads `C` only. -/
theorem test_brc_untaken : cpuAfter (small 0 2 true false false 10 3 []) = some (0, 3, true, false, false) := by decide
/-- T66: backward by wrap. -/
theorem test_brn_taken : cpuAfter (small 9 4 false true false 11 14 []) = some (9, 2, false, true, false) := by decide
/-- T75: `BRN` reads `N` only. -/
theorem test_brn_untaken : cpuAfter (small 0 2 true false false 11 3 []) = some (0, 3, true, false, false) := by decide
/-- T4. -/
theorem test_unk : cpuAfter (small 5 2 true false true 14 7 []) = some (5, 3, true, false, true) := by decide
/-- T4's event. -/
theorem test_unk_event :
    (nextOf (step (small 5 2 true false true 14 7 []))).map State.log = some [.unknownOpcode 2 14] := by decide

/-! ### The assembler and the encoder (95_test_vectors.md section 2.7; 30_encoding.md R129) -/

/-- The result of assembling a text. -/
def asm (src : String) : AsmResult := (assemble src.toList).result

/-- The two memories of a text's image, the first `k` words of each. -/
def imageWords (src : String) (k : Nat) : List Nibble × List Nibble :=
  ((Memory.words (imageOf (asm src).sequence).imem).take k, (Memory.words (imageOf (asm src).sequence).dmem).take k)

/-- R129: the source's end-to-end program. -/
theorem test_asm_worked_encoding :
    imageWords "LDA #1\n:loop ADD #2\nSUB #1\nSTA 15\nBRN #2\nJMP loop" 7 =
      ([1, 4, 6, 3, 11, 8, 0], [1, 2, 1, 15, 2, 1, 0]) := by decide
/-- T100, T101: numbers are masked by the encoder, silently. -/
theorem test_asm_masks : imageWords "LDA #17\nSTA 31" 2 = ([1, 3], [1, 15]) := by decide
/-- T105: a forward reference. -/
theorem test_asm_forward : imageWords "JMP end\nLDA #9\n:end NOP" 3 = ([8, 1, 0], [2, 9, 0]) := by decide
/-- T105's diagnostic. -/
theorem test_asm_forward_event :
    (assemble "JMP end\nLDA #9\n:end NOP".toList).events = [.forwardReference "end".toList 1] := by decide
/-- T120. -/
theorem test_asm_duplicate : asm ":a NOP\n:a NOP" = .err (.duplicateLabel ['a'] 1 2) := by decide
/-- T123: the operand of `JMP` is a label name. -/
theorem test_asm_numeric_jump : asm "JMP 3" = .err (.unresolvedLabel ['3']) := by decide
/-- T108 to T117, a choice: malformed lines. -/
theorem test_asm_malformed :
    [":x", ": NOP", "LDA", "NOP 3", "LDA #1 ; load", "lda #1", "LDA_R 3", "STA #3", "BRZ loop", "LDA ( 5 )"].all
      (fun t => asm t == .err (.malformedLine 1)) = true := by decide
/-- T118: invalid numbers. -/
theorem test_asm_invalid_number :
    ["LDA #x", "LDA #", "LDA #-1", "LDA #0x3", "ADD (", "ADD ()", "SUB abc"].all
      (fun t => asm t == .err (.invalidNumber 1)) = true := by decide
/-- T130, and CRLF, tabs and blank lines (R94). -/
theorem test_asm_blank_lines : imageWords " LDA #1\r\n\r\n\tNOP \n" 2 = ([1, 0], [1, 0]) := by decide
/-- T127: the seventeenth line fails in the first pass, after its own forward reference was logged (R104). -/
theorem test_asm_seventeen :
    assemble ((List.replicate 16 "NOP\n".toList).flatten ++ "JMP nowhere".toList) =
      ⟨.err (.tooManyInstructions 17), [.forwardReference "nowhere".toList 17, .tooManyInstructions 17]⟩ := by decide

/-! ### Run (95_test_vectors.md section 2.6) -/

/-- `LDA #0` (S5). -/
def progZero : Program := ⟨[⟨.lda, .lda, .immediate 0, none⟩], by decide⟩
/-- `:x JMP x` (S4). -/
def progLoop : Program := ⟨[⟨.jmp, .jmp, .resolvedAddress 0, some ['x']⟩], by decide⟩
/-- `:a JMP b`, `:b JMP a` (T87). -/
def progTwo : Program :=
  ⟨[⟨.jmp, .jmp, .resolvedAddress 1, some ['a']⟩, ⟨.jmp, .jmp, .resolvedAddress 0, some ['b']⟩], by decide⟩
/-- A launch state (R275). -/
def launch (p : Program) : State := resetOp (load p State.reset)

/-- T82. -/
theorem test_run_ended : (runFuel none 3 (launch progZero)).map (fun r => (r.1, r.2.pc, r.2.log)) =
    some (.ended, 1, [.programEnd 1]) := by decide
/-- T85: the guard clears `DEBUG`. -/
theorem test_run_selfLoop : (runFuel none 3 (debugOn (launch progLoop))).map (fun r => (r.1, r.2.pc, r.2.debug, r.2.log)) =
    some (.selfLoop, 0, false, [.selfLoop 0]) := by decide
/-- 10_state.md R20, R30: the host reads the three engine-control elements. -/
theorem test_observe_engineControl : let o := observe (debugOn (launch progLoop))
    (o.icount, o.running, o.debug) = (1, false, true) := by decide
/-- T87. -/
theorem test_run_budget : (runFuel (some 6) 7 (launch progTwo)).map (fun r => (r.1, r.2.pc, r.2.log)) =
    some (.budgetExceeded, 0, [.budgetExceeded 0 6]) := by decide
/-- T90: budget 0. -/
theorem test_run_budget_zero : (runFuel (some 0) 1 (launch progZero)).map (fun r => (r.1, r.2.pc)) =
    some (.budgetExceeded, 0) := by decide
/-- T80. -/
theorem test_run_notLoaded : runFuel none 0 State.reset = some (.notLoaded, State.reset) := by decide

/-! ### Witnesses: for each statement with hypotheses, a concrete case that meets them -/

theorem witness_KindCodeRoundTrip : (0xB : Nibble).toNat < 12 ∧ opcode .brn = opcode .brn := by decide
theorem witness_StepRunsTheDecodedInstruction :
    let s := small 12 1 false false false 4 9 []
    (Instr.add 9).wellFormed = true ∧ s.icount ≠ 0 ∧
      decode (Memory.read s.imem s.pc.toNat) (Memory.read s.dmem s.pc.toNat) = .add 9 := by decide
theorem witness_NotLoadedChangesNothing : State.reset.icount = 0 := by decide
theorem witness_PlacedWordRunsNext : decodeTableWord 8 0x49 = some (.add 9) := by decide
/-- The hypothesis of every `SourceForm`. -/
theorem witness_SourceForm : parseUint "17".toList = some 17 := by decide
theorem witness_StaRStoresTheAccumulator : slotAddress 15 = 15 ∧ (14 : Nat) ≠ (15 : Nibble).toNat := by decide
theorem witness_UnassignedOpcodeIsLoggedNoOp : 0xC ≤ (0xC : Nibble).toNat ∧ 0xC ≤ (0xF : Nibble).toNat := by decide
theorem witness_MaskIsFloorModulo : (((15 : Nibble).toNat : Nat) : Int) % 16 = (-1 : Int) % 16 := by decide
theorem witness_OnlySixInstructionsWriteAccAndFlags :
    writesAcc (.staR 2) = false ∧
      exec (.staR 2) (small 7 1 false false true 3 2 []) = .next (stepOp (small 7 1 false false true 3 2 [])) :=
  ⟨rfl, exec_eq_arm _ _⟩
theorem witness_WhatNoInstructionWrites :
    exec (.add 9) (small 12 1 false false false 4 9 []) = .next (stepOp (small 12 1 false false false 4 9 [])) ∧
      ∀ d, Instr.add 9 ≠ .staR d := ⟨exec_eq_arm _ _, by simp⟩
theorem witness_BackwardBranchWraps : (1 ≤ 1 ∧ 1 ≤ 15) ∧ (1 ≤ 15 ∧ 15 ≤ 15) := by decide
theorem witness_MemoryPrimitives : (3 : Nibble) ≠ 2 := by decide
theorem witness_StoreIsSeenByTheNextFetch :
    let s := small 9 1 false false false 3 1 []
    s.icount ≠ 0 ∧ fetchWord s.pc s = (0x3, 1) ∧ (0 : Nibble) ≠ 1 := by decide
theorem witness_StepKeepsMemoriesCanonical :
    (Memory.wf (small 7 1 false false true 3 2 []).imem ∧ Memory.wf (small 7 1 false false true 3 2 []).dmem) ∧
      step (small 7 1 false false true 3 2 []) = .next (stepOp (small 7 1 false false true 3 2 [])) :=
  ⟨by decide, step_eq_stepOp _⟩
theorem witness_ObservationDeterminesState :
    let s := small 7 1 false false true 3 2 []
    let t := emit (.programEnd 1) s
    (Memory.wf s.imem ∧ Memory.wf s.dmem) ∧ (Memory.wf t.imem ∧ Memory.wf t.dmem) ∧ observe s = observe t := by decide
theorem witness_StepKeepsFlagsDescribeAcc :
    let s := small 12 1 false true false 4 9 []
    (s.n = s.a.getLsbD 3 ∧ (s.z = true → s.a = 0)) ∧ s.icount ≠ 0 ∧ writesAcc (fetchInstr s) = true := by decide
theorem witness_CycleDependsOnlyOnItsInputs :
    let s := small 9 3 false true false 5 14 [(14, 3)]
    let t := { s with dmem := Memory.write s.dmem 7 7, icount := 16, debug := true }
    s.icount ≠ 0 ∧ t.icount ≠ 0 ∧ s.a = t.a ∧ s.pc = t.pc ∧ s.z = t.z ∧ s.n = t.n ∧ s.c = t.c ∧
      fetchWord s.pc s = fetchWord t.pc t ∧ memRead (fetchWord s.pc s).2 s = memRead (fetchWord t.pc t).2 t := by decide
theorem witness_SelfTransferCases : (cycle (small 0 1 true false false 9 0 [])).selfTransfer = true := by decide
/-- Runs that return, one for each outcome: the hypotheses of `RunOutcomeStates`, `RunIsStepsWithinBudget`,
`DiagnosticsNeverFeedBack`, `StoppedRunsResume` and `BudgetsAdd`. -/
theorem witness_RunReturns_notLoaded : RunReturns none State.reset .notLoaded State.reset := ⟨0, by decide⟩
theorem witness_RunReturns_ended :
    RunReturns none (launch progZero) .ended (stopRun (.programEnd 1) (cycle (launch progZero)).state) := ⟨3, by decide⟩
theorem witness_RunReturns_selfLoop :
    RunReturns none (launch progLoop) .selfLoop (stopRun (.selfLoop 0) (launch progLoop)) := ⟨3, by decide⟩
theorem witness_RunReturns_budgetExceeded :
    RunReturns (some 1) (launch progTwo) .budgetExceeded
      (stopRun (.budgetExceeded 1 1) (cycle (launch progTwo)).state) := ⟨2, by decide⟩
theorem witness_StoppedRunsResume : (some 1 : Option Nat) ≠ some 0 ∧ (none : Option Nat) ≠ some 0 := by decide
/-- `BudgetsAdd`: a second Run, from where the first used up its budget. -/
theorem witness_BudgetsAdd :
    RunReturns (some 1) (stopRun (.budgetExceeded 1 1) (cycle (launch progTwo)).state) .budgetExceeded
      (stopRun (.budgetExceeded 0 1) (stopRun (.budgetExceeded 1 1) (launch progTwo))) := ⟨2, by decide⟩
theorem witness_RunEndsAtTheFirstHeadOutside :
    (launch progZero).icount ≠ 0 ∧
      (∀ j, j < 1 → outOfProgram (stepN j (launch progZero)) = false ∧
        (cycle (stepN j (launch progZero))).selfTransfer = false) ∧
      outOfProgram (stepN 1 (launch progZero)) = true := by decide
/-- The guard fires at head 0, with the least budget that lets it. -/
theorem witness_RunStopsAtTheFirstSelfTransfer :
    (launch progLoop).icount ≠ 0 ∧ (∀ m, (some 1 : Option Nat) = some m → 0 < m) ∧
      (∀ j, j < 0 → outOfProgram (stepN j (launch progLoop)) = false ∧
        (cycle (stepN j (launch progLoop))).selfTransfer = false) ∧
      outOfProgram (stepN 0 (launch progLoop)) = false ∧
      (cycle (stepN 0 (launch progLoop))).selfTransfer = true :=
  ⟨by decide, fun m h => by injection h with h; omega, by decide, by decide, by decide⟩
theorem witness_SixteenInstructionsNeverEnd :
    ({ State.reset with icount := 16 } : State).icount.val = 16 := by decide
theorem witness_RevisitedStateDiverges :
    (launch progTwo).icount ≠ 0 ∧ 0 < 2 ∧ stepN 0 (launch progTwo) = stepN 2 (launch progTwo) ∧
      ∀ k, k < 2 → outOfProgram (stepN k (launch progTwo)) = false ∧
        (cycle (stepN k (launch progTwo))).selfTransfer = false := by decide
theorem witness_LoadWritesTheImage :
    progTwo.nodes[1]? = some ⟨.jmp, .jmp, .resolvedAddress 0, some ['b']⟩ ∧ progTwo.nodes.length ≤ 2 := by decide
theorem witness_EncoderFallsBackToNop : ∀ k, Kind.name k ≠ "HLT".toList := by intro k; cases k <;> decide
/-- The premises of the step clauses of `HostReachableInvariant`. -/
theorem witness_HostReachableInvariant_step :
    HostInv (debugOn State.reset) ∧ HostStep (.load progLoop) (debugOn State.reset) (load progLoop (debugOn State.reset)) :=
  ⟨⟨⟨by decide, by decide⟩, fun _ => (by decide : (0 : Nibble).toNat < 12), ⟨by decide, by decide⟩, rfl⟩, .load _ _⟩
theorem witness_HostReachable : HostReachable (debugOn (load progLoop State.reset)) :=
  .op .debugOn _ _ (.op (.load progLoop) _ _ .init (.load _ _)) (.debugOn _)
theorem witness_FormsWithoutOpcodeAreMalformed : Mnemonic.brz ≠ .nop ∧ "loop".toList.head? ≠ some '#' := by decide
theorem witness_SuccessfulAssembly :
    asm ":x JMP x" = .ok [⟨.jmp, .jmp, .resolvedAddress 0, some ['x']⟩] ∧
      [(⟨.jmp, .jmp, .resolvedAddress 0, some ['x']⟩ : Node)] ≠ [] := by decide
theorem witness_OneInstructionPerLine :
    asm ":x JMP x" = .ok [⟨.jmp, .jmp, .resolvedAddress 0, some ['x']⟩] ∧
      (sourceLines ":x JMP x".toList)[0]? = some ":x JMP x".toList := by decide
/-- What a line reads as, for `JumpsResolveToTheirLabels`. -/
theorem witness_JumpsResolveToTheirLabels :
    asm ":x JMP x" = .ok [⟨.jmp, .jmp, .resolvedAddress 0, some ['x']⟩] ∧
      (sourceLines ":x JMP x".toList)[0]? = some ":x JMP x".toList ∧
      readLine (tokens ":x JMP x".toList) = .ok ⟨.jmp, .jmp, .labelRef ['x'], some ['x']⟩ := ⟨by decide, by decide, rfl⟩
theorem witness_TooManyLinesFail :
    16 < (sourceLines (List.replicate 17 "NOP\n".toList).flatten).length := by decide
theorem witness_FailedAssemblyHasOneError : asm "JMP missing" = .err (.unresolvedLabel "missing".toList) := by decide
theorem witness_FailedBuildLoadsNothing : (asm "").sequence = [] ∧ (asm "JMP missing").sequence = [] := by decide

end Sys2Proof.Tests
end

section
/-! PROOFS. Masking, and that the diagnostics log is write-only (spec/00_scope.md R7, R8). -/

namespace Sys2Proof.Machine

/-! ### Masking -/

/-- Settles O23: `mask4_toInt` gives the residue, and a nibble is its own residue mod 16. -/
theorem maskIsFloorModulo : Obligations.MaskIsFloorModulo := by
  intro r
  have hres : ((mask4 r).toNat : Int) = r % 16 := mask4_toInt r
  refine ⟨hres, fun m hm => BitVec.eq_of_toNat_eq ?_⟩
  have hlt : m.toNat < 16 := m.isLt
  omega

/-! ### A state with another log

Each operation either leaves the log alone or appends entries that it chooses without reading the log. Both are said
as a law that moves `withLog` through the operation. -/

/-- The state `s` with the log `l`. -/
def State.withLog (s : State) (l : List Event) : State := { s with log := l }

/-- What step 3 of the cycle leaves, with the log `l`. -/
def Executed.withLog (e : Executed) (l : List Event) : Executed := ⟨e.state.withLog l, e.xfer⟩

/-- A turn of Run's loop whose state has the log `l`. -/
def RunTurn.withLog (r : RunTurn) (l : List Event) : RunTurn :=
  match r with
  | .returns o t => .returns o (t.withLog l)
  | .goesOn m t => .goesOn m (t.withLog l)

@[simp] theorem withLog_pc (s : State) (l : List Event) : (s.withLog l).pc = s.pc := rfl

@[simp] theorem withLog_log (s : State) (l : List Event) : (s.withLog l).log = l := rfl

@[simp] theorem withLog_xfer (e : Executed) (l : List Event) : (e.withLog l).xfer = e.xfer := rfl

/-! ### What does not read the log -/

@[simp] theorem fetchInstr_withLog (s : State) (l : List Event) : fetchInstr (s.withLog l) = fetchInstr s := rfl

@[simp] theorem loaded_withLog (s : State) (l : List Event) : loaded (s.withLog l) = loaded s := rfl

@[simp] theorem outOfProgram_withLog (s : State) (l : List Event) : outOfProgram (s.withLog l) = outOfProgram s := rfl

/-! ### What keeps the log -/

@[simp] theorem setRunning_withLog (b : Bool) (s : State) (l : List Event) :
    setRunning b (s.withLog l) = (setRunning b s).withLog l := rfl

@[simp] theorem clearDebug_withLog (s : State) (l : List Event) :
    clearDebug (s.withLog l) = (clearDebug s).withLog l := rfl

theorem branchIf_withLog (flag : Bool) (d : Nibble) (s : State) (l : List Event) :
    branchIf flag d (s.withLog l) = (branchIf flag d s).withLog l := by
  cases flag <;> rfl

@[simp] theorem advance_withLog (pc0 : Nibble) (e : Executed) (l : List Event) :
    advance pc0 (e.withLog l) = (advance pc0 e).withLog l := by
  obtain ⟨t, xfer⟩ := e
  cases xfer <;> rfl

/-! ### What appends to the log -/

@[simp] theorem stopRun_withLog (e : Event) (s : State) (l : List Event) :
    stopRun e (s.withLog l) = (stopRun e s).withLog (l ++ [e]) := rfl

/-- The entries that the arm of `i` appends at address `pc0`: one for an unassigned opcode (40_cycle.md R147), none for
any other instruction. -/
def armEvents (i : Instr) (pc0 : Nibble) : List Event :=
  match i with
  | .unk op _ => [.unknownOpcode pc0 op]
  | .nop _ | .lda _ | .ldaR _ | .staR _ | .add _ | .addR _ | .sub _ | .subR _
  | .jmp _ | .brz _ | .brc _ | .brn _ => []

/-- Only the unassigned opcodes emit; every other arm carries the log through. -/
theorem arm_withLog (i : Instr) (s : State) (l : List Event) :
    arm i (s.withLog l) = (arm i s).withLog (l ++ armEvents i s.pc) := by
  cases i with
  | unk op d => rfl
  | brz d | brc d | brn d => rw [armEvents, List.append_nil]; exact branchIf_withLog _ d s l
  | _ => rw [armEvents, List.append_nil]; rfl

/-- What a cycle leaves is blind to the log, to which it appends its arm's entries. -/
@[simp] theorem cycle_state_withLog (s : State) (l : List Event) :
    (cycle (s.withLog l)).state = (cycle s).state.withLog (l ++ armEvents (fetchInstr s) s.pc) := by
  simp [cycle, arm_withLog]

/-- What a cycle returns is blind to the log, so the guard's condition is. -/
@[simp] theorem selfTransfer_withLog (s : State) (l : List Event) :
    (cycle (s.withLog l)).selfTransfer = (cycle s).selfTransfer := by
  have hxfer : (cycle (s.withLog l)).xfer = (cycle s).xfer := by simp [cycle, arm_withLog]
  simp [CycleResult.selfTransfer, hxfer, cycle_pc0]

/-! ### Step and Run append the same entries to every log -/

/-- The host's Step appends the cycle's entries on loaded hardware, and none where nothing is loaded. -/
theorem stepOp_withLog (s : State) :
    ∃ es, ∀ l, stepOp (s.withLog l) = (stepOp s).withLog (l ++ es) := by
  by_cases h : loaded s = true
  · exact ⟨armEvents (fetchInstr s) s.pc, fun l => by simp [stepOp, h]⟩
  · exact ⟨[], fun l => by simp [stepOp, h]⟩

/-- A turn of Run's loop appends the entries of its cycle and of its return. -/
theorem runTurn_withLog (b : Option Nat) (n : Nat) (s : State) :
    ∃ es, ∀ l, runTurn b n (s.withLog l) = (runTurn b n s).withLog (l ++ es) := by
  obtain ⟨hout, -⟩ | ⟨hout, hb, -⟩ | ⟨hout, hb, hself, -⟩ | ⟨hout, hb, hself, -⟩ :=
    runTurn_cases b n s
  · exact ⟨[.programEnd s.pc], fun l => by simp [runTurn, hout, RunTurn.withLog]⟩
  · exact ⟨[.budgetExceeded s.pc n], fun l => by simp [runTurn, hout, hb, RunTurn.withLog]⟩
  · exact ⟨armEvents (fetchInstr s) s.pc ++ [.selfLoop s.pc], fun l => by
      simp [runTurn, hout, hb, hself, RunTurn.withLog]⟩
  · exact ⟨armEvents (fetchInstr s) s.pc, fun l => by
      simp [runTurn, hout, hb, hself, RunTurn.withLog]⟩

theorem runLoop_withLog (b : Option Nat) (f n : Nat) (s t : State) (o : RunOutcome)
    (hr : runLoop b f n s = some (o, t)) :
    ∃ es, ∀ l, runLoop b f n (s.withLog l) = some (o, t.withLog (l ++ es)) := by
  induction f generalizing n s with
  | zero => simp [runLoop_zero] at hr
  | succ f ih =>
    obtain ⟨es, hes⟩ := runTurn_withLog b n s
    rw [runLoop_succ] at hr
    cases hturn : runTurn b n s with
    | returns o' t' =>
      obtain ⟨rfl, rfl⟩ : o' = o ∧ t' = t := by simpa [hturn] using hr
      exact ⟨es, fun l => by rw [runLoop_succ, hes l, hturn]; rfl⟩
    | goesOn m s' =>
      obtain ⟨es', hes'⟩ := ih m s' (by simpa [hturn] using hr)
      refine ⟨es ++ es', fun l => ?_⟩
      rw [runLoop_succ, hes l, hturn, ← List.append_assoc]
      exact hes' (l ++ es)

theorem runFuel_withLog (b : Option Nat) (f : Nat) (s t : State) (o : RunOutcome)
    (hr : runFuel b f s = some (o, t)) :
    ∃ es, ∀ l, runFuel b f (s.withLog l) = some (o, t.withLog (l ++ es)) := by
  by_cases h : loaded s = true
  · simp only [runFuel, h, if_true] at hr
    obtain ⟨es, hes⟩ := runLoop_withLog b f 0 _ t o hr
    exact ⟨es, fun l => by simpa [runFuel, h] using hes l⟩
  · obtain ⟨rfl, rfl⟩ : .notLoaded = o ∧ s = t := by simpa [runFuel, h] using hr
    exact ⟨[], fun l => by simp [runFuel, h]⟩

/-- Settles O35. That `s` itself appends `es` is the law for its own log. -/
theorem diagnosticsNeverFeedBack : Obligations.DiagnosticsNeverFeedBack := by
  refine ⟨fun _ _ => rfl, fun s l => ?step, fun b s l o t => ?run⟩
  case step =>
    obtain ⟨es, hes⟩ := stepOp_withLog s
    have hlog : (stepOp s).log = s.log ++ es := congrArg State.log (hes s.log)
    exact ⟨stepOp s, es, step_eq_stepOp s, hlog, (step_eq_stepOp _).trans (congrArg _ (hes l))⟩
  case run =>
    rintro ⟨fuel, hr⟩
    obtain ⟨es, hes⟩ := runFuel_withLog b fuel s t o hr
    have hown : some (o, t) = some (o, t.withLog (s.log ++ es)) := hr.symm.trans (hes s.log)
    have hlog : t.log = s.log ++ es := by simpa using congrArg (fun r => r.map (·.2.log)) hown
    exact ⟨es, hlog, fuel, hes l⟩

end Sys2Proof.Machine
end

section
/-! PROOFS. The state (spec/10_state.md): its value at engine initialisation, what an instruction may write of it, the
flags' formulas, and that the host's observation determines it. -/

namespace Sys2Proof.Machine

/-! ### Engine initialisation (10_state.md R33) -/

/-- Settles O29: the empty memory is canonical. -/
theorem resetMemoriesCanonical : Obligations.ResetMemoriesCanonical := ⟨Memory.wf_nil, Memory.wf_nil⟩

/-- Settles O45: both memories are empty, and the empty memory lists no address. -/
theorem powerOnState : Obligations.PowerOnState :=
  ⟨rfl, rfl, rfl, rfl, rfl, fun k => ⟨Memory.read_nil k, Memory.read_nil k⟩, rfl, rfl, rfl, rfl⟩

/-! ### What the host reads (10_state.md R35) -/

theorem Memory.words_eq_iff (m m' : Memory) :
    Memory.words m = Memory.words m' ↔ ∀ k, k < Config.depth → Memory.read m k = Memory.read m' k := by
  simp [Memory.words, List.map_inj_left]

/-- The 16 words determine a canonical memory: outside them it lists nothing. -/
theorem Memory.eq_of_words_eq (m m' : Memory) (h : Memory.wf m) (h' : Memory.wf m')
    (hw : Memory.words m = Memory.words m') : m = m' := by
  refine Memory.ext_of_wf m m' h h' fun k => ?_
  by_cases hk : k < Config.depth
  · exact (Memory.words_eq_iff m m').mp hw k hk
  · rw [Memory.read_outside m k h (by omega), Memory.read_outside m' k h' (by omega)]

/-- Settles O31: the registers, the flags and the control elements are read as they are, and each memory is determined
by its words. -/
theorem observationDeterminesState : Obligations.ObservationDeterminesState := by
  rintro s t ⟨hsi, hsd⟩ ⟨hti, htd⟩ hobs
  have himem : s.imem = t.imem := Memory.eq_of_words_eq _ _ hsi hti (congrArg Observation.imem hobs)
  have hdmem : s.dmem = t.dmem := Memory.eq_of_words_eq _ _ hsd htd (congrArg Observation.dmem hobs)
  obtain ⟨ha, hpc, hz, hn, hc, -, -, hicount, hrunning, hdebug⟩ := Observation.mk.inj hobs
  rw [ha, hpc, hz, hn, hc, himem, hdmem, hicount, hrunning, hdebug]

/-! ### What an instruction may write -/

/-- An instruction's next state is its arm's, advanced. -/
theorem exec_eq_next_iff (i : Instr) (s t : State) : exec i s = .next t ↔ t = advance s.pc (arm i s) := by
  rw [exec_eq_arm, Host.Outcome.next.injEq, eq_comm]

/-- The arm of an instruction that is not one of the six writes neither `A` nor a flag (10_state.md R24). -/
theorem arm_keeps_acc (i : Instr) (s : State) (h : writesAcc i = false) :
    (arm i s).state.a = s.a ∧ (arm i s).state.z = s.z ∧ (arm i s).state.n = s.n ∧ (arm i s).state.c = s.c := by
  cases i with
  | lda | ldaR | add | addR | sub | subR => cases h
  | brz | brc | brn => simp [arm, armBrz, armBrc, armBrn, branchIf_state]
  | nop | staR | jmp | unk => exact ⟨rfl, rfl, rfl, rfl⟩

/-- The arm of an instruction other than `STA_R` leaves `DMEM` alone (10_state.md R28). -/
theorem arm_keeps_dmem (i : Instr) (s : State) (h : ∀ d, i ≠ .staR d) : (arm i s).state.dmem = s.dmem := by
  cases i with
  | staR d => exact absurd rfl (h d)
  | brz | brc | brn => simp [arm, armBrz, armBrc, armBrn, branchIf_state]
  | nop | lda | ldaR | add | addR | sub | subR | jmp | unk => rfl

/-- Settles O24: the arm keeps the four, and the advance writes `PC` alone. -/
theorem onlySixInstructionsWriteAccAndFlags : Obligations.OnlySixInstructionsWriteAccAndFlags := by
  intro i s t hi hexec
  obtain rfl := (exec_eq_next_iff i s t).mp hexec
  simpa using arm_keeps_acc i s hi

/-- Settles O25: the arm keeps these elements, and the advance writes `PC` alone. -/
theorem whatNoInstructionWrites : Obligations.WhatNoInstructionWrites := by
  intro i s t hexec
  obtain rfl := (exec_eq_next_iff i s t).mp hexec
  obtain ⟨himem, hicount, hrunning, hdebug⟩ := arm_keeps i s
  refine ⟨by simpa, by simpa, by simpa, by simpa, fun hi k => ?_⟩
  rw [advance_dmem, arm_keeps_dmem i s hi]

/-! ### `SetFlags` (10_state.md R25) -/

/-- Bit 3 of a nibble says whether it is at least 8. -/
theorem nibble_bit3 (x : Nibble) : x.getLsbD 3 = decide (8 ≤ x.toNat) := by
  rw [← BitVec.msb_eq_decide x]; rfl

theorem flagZ_eq (r : Int) : flagZ r = decide (mask4 r = 0) := rfl

theorem flagN_eq (r : Int) : flagN r = decide (8 ≤ (mask4 r).toNat) := nibble_bit3 _

/-- `A <- SetFlags(r)` in full. -/
theorem accumulate_eq (r : Int) (s : State) :
    accumulate r s = { s with
      a := mask4 r, z := decide (mask4 r = 0), n := decide (8 ≤ (mask4 r).toNat), c := decide (15 < r) } := by
  rw [← flagZ_eq, ← flagN_eq]; rfl

/-- A masked result of 0 has bit 3 clear. -/
theorem flagZ_flagN_exclusive (r : Int) : ¬ (flagZ r = true ∧ flagN r = true) := by
  rw [flagZ_eq, flagN_eq]
  rintro ⟨hz, hn⟩
  have hzero : mask4 r = 0 := of_decide_eq_true hz
  have hbig : 8 ≤ (mask4 r).toNat := of_decide_eq_true hn
  simp [hzero] at hbig

/-- An instruction whose arm signals no transfer is that arm's state, with `PC` advanced. -/
theorem exec_of_arm_noTransfer (i : Instr) (s u : State) (h : arm i s = noTransfer u) :
    exec i s = .next (advance s.pc ⟨u, false⟩) := by
  rw [exec_eq_arm, h]; rfl

/-- `SUB` adds the negated immediate: it subtracts (42_arithmetic.md R172). -/
theorem arm_sub (d : Nibble) (s : State) :
    arm (.sub d) s = noTransfer (accumulate ((s.a.toNat : Int) - d.toNat) s) := by
  rw [Int.sub_eq_add_neg]; rfl

/-- `SUB_R` adds the slot's negated word: it subtracts (42_arithmetic.md R173). -/
theorem arm_subR (d : Nibble) (s : State) :
    arm (.subR d) s = noTransfer (accumulate ((s.a.toNat : Int) - (memRead d s).toNat) s) := by
  rw [Int.sub_eq_add_neg]; rfl

/-- Settles O22. -/
theorem setFlagsFormulas : Obligations.SetFlagsFormulas :=
  ⟨fun r s => ⟨accumulate_eq r s, flagZ_flagN_exclusive r⟩, fun d s =>
    ⟨exec_of_arm_noTransfer (.lda d) s _ rfl, exec_of_arm_noTransfer (.ldaR d) s _ rfl,
      exec_of_arm_noTransfer (.add d) s _ rfl, exec_of_arm_noTransfer (.addR d) s _ rfl,
      exec_of_arm_noTransfer _ s _ (arm_sub d s), exec_of_arm_noTransfer _ s _ (arm_subR d s)⟩⟩

end Sys2Proof.Machine
end

section
/-! PROOFS. Memory (spec/20_memory.md): the data write, the store seen by the next fetch, and that every step keeps the
canonical form of both memories. -/

namespace Sys2Proof.Machine

/-! ### A step is a cycle on loaded hardware -/

theorem step_eq_next_iff (s t : State) : step s = .next t ↔ t = stepOp s := by
  rw [step_eq_stepOp, Host.Outcome.next.injEq, eq_comm]

/-- On loaded hardware a step is one cycle (44_system_run_control.md R213). -/
theorem stepOp_of_loaded (s : State) (h : s.icount ≠ 0) : stepOp s = advance s.pc (arm (fetchInstr s) s) :=
  if_pos ((loaded_iff s).mpr h)

/-- Where nothing is loaded a step does nothing (44_system_run_control.md R212). -/
theorem stepOp_of_not_loaded (s : State) (h : s.icount = 0) : stepOp s = s :=
  if_neg fun hl => (loaded_iff s).mp hl h

/-! ### The canonical form (20_memory.md R50, R52) -/

/-- Every nibble is an address below 16, so a data write keeps the canonical form. -/
theorem memWrite_keeps_memoriesWf (d v : Nibble) (s : State) (h : MemoriesWf s) : MemoriesWf (memWrite d v s) := by
  obtain ⟨himem, hdmem⟩ := h
  exact ⟨himem, Memory.write_wf s.dmem d.toNat v hdmem d.isLt⟩

/-- Only `STA_R` writes a memory, and it does so by a data write. -/
theorem arm_keeps_memoriesWf (i : Instr) (s : State) (h : MemoriesWf s) : MemoriesWf (arm i s).state := by
  by_cases hi : ∃ d, i = .staR d
  · obtain ⟨d, rfl⟩ := hi
    exact memWrite_keeps_memoriesWf d s.a s h
  · obtain ⟨himem, -⟩ := arm_keeps i s
    have hdmem : (arm i s).state.dmem = s.dmem := arm_keeps_dmem i s fun d hd => hi ⟨d, hd⟩
    rwa [MemoriesWf, himem, hdmem]

/-- The advance writes `PC` alone. -/
theorem advance_memoriesWf_iff (pc0 : Nibble) (e : Executed) : MemoriesWf (advance pc0 e) ↔ MemoriesWf e.state := by
  rw [MemoriesWf, advance_imem, advance_dmem, MemoriesWf]

theorem stepOp_keeps_memoriesWf (s : State) (h : MemoriesWf s) : MemoriesWf (stepOp s) := by
  by_cases hl : s.icount = 0
  · rwa [stepOp_of_not_loaded s hl]
  · rw [stepOp_of_loaded s hl, advance_memoriesWf_iff]
    exact arm_keeps_memoriesWf _ s h

/-- Settles O30. -/
theorem stepKeepsMemoriesCanonical : Obligations.StepKeepsMemoriesCanonical := by
  intro s t hwf hstep
  obtain rfl := (step_eq_next_iff s t).mp hstep
  exact stepOp_keeps_memoriesWf s hwf

/-! ### The data write (20_memory.md R52) -/

/-- Settles O27: `memRead_memWrite` at the address written and at another one. -/
theorem memoryPrimitives : Obligations.MemoryPrimitives := by
  refine fun d v e s => ⟨?_, fun he => ?_, rfl⟩
  · rw [memRead_memWrite, if_pos rfl]
  · rw [memRead_memWrite, if_neg he]

/-! ### The fetch after a store (20_memory.md R62) -/

/-- A data write changes the data nibble fetched from its address, and no other nibble of any fetch. -/
theorem fetchWord_memWrite (d v x : Nibble) (s : State) :
    fetchWord x (memWrite d v s) = ((fetchWord x s).1, if x = d then v else (fetchWord x s).2) :=
  Prod.ext rfl (memRead_memWrite d v x s)

/-- A fetch does not read `PC`, which is all that the advance writes. -/
theorem fetchWord_advance (pc0 x : Nibble) (e : Executed) : fetchWord x (advance pc0 e) = fetchWord x e.state := by
  rw [fetchWord, advance_imem, advance_dmem, fetchWord]

theorem fetchInstr_of_fetchWord (s : State) (op d : Nibble) (h : fetchWord s.pc s = (op, d)) :
    fetchInstr s = decode op d := by
  rw [fetchInstr, h]

/-- The cycle of `STA_R`: the data write, and the advance. -/
theorem stepOp_staR (s : State) (d : Nibble) (hl : s.icount ≠ 0) (hf : fetchWord s.pc s = (0x3, d)) :
    stepOp s = advance s.pc (noTransfer (memWrite d s.a s)) := by
  have hinstr : fetchInstr s = .staR d := fetchInstr_of_fetchWord s 0x3 d hf
  rw [stepOp_of_loaded s hl, hinstr]
  rfl

/-- Settles O28: a fetch after the cycle of `STA_R` is a fetch after its data write. -/
theorem storeIsSeenByTheNextFetch : Obligations.StoreIsSeenByTheNextFetch := by
  intro d s hl hf
  have hfetch : ∀ x, fetchWord x (stepOp s) = ((fetchWord x s).1, if x = d then s.a else (fetchWord x s).2) :=
    fun x => by rw [stepOp_staR s d hl hf, fetchWord_advance, noTransfer_state, fetchWord_memWrite]
  refine ⟨stepOp s, step_eq_stepOp s, ?_, fun x hx => ?_⟩
  · rw [hfetch, if_pos rfl]
  · rw [hfetch, if_neg hx]

end Sys2Proof.Machine
end

section
/-! PROOFS. The decoder and the encoder (spec/30_encoding.md R80 to R87), and the step of a placed word. -/

namespace Sys2Proof

/-! ### Kinds and codes (30_encoding.md R82, R87) -/

/-- The opcode table, read as one equivalence. -/
theorem decodeKind_eq_some_iff (op : Nibble) (k : Kind) : decodeKind op = some k ↔ op = opcode k := by
  revert op
  cases k <;> decide

@[simp] theorem decodeKind_opcode (k : Kind) : decodeKind (opcode k) = some k :=
  (decodeKind_eq_some_iff _ k).mpr rfl

/-- The four opcodes with no mapping are 0xC to 0xF (30_encoding.md R86). -/
theorem decodeKind_eq_none_iff (op : Nibble) : decodeKind op = none ↔ 12 ≤ op.toNat := by
  revert op
  decide

theorem exists_decodeKind_of_lt (op : Nibble) (h : op.toNat < 12) : ∃ k, decodeKind op = some k :=
  Option.ne_none_iff_exists'.mp fun hnone => by have := (decodeKind_eq_none_iff op).mp hnone; omega

theorem opcode_lt (k : Kind) : (opcode k).toNat < 12 := by
  cases k <;> decide

/-- Settles O4. -/
theorem kindCodeRoundTrip : Obligations.KindCodeRoundTrip := by
  refine ⟨decodeKind_opcode, fun op hop => ?_, fun k k' hcode => ?_⟩
  · obtain ⟨k, hk⟩ := exists_decodeKind_of_lt op hop
    exact ⟨k, hk, ((decodeKind_eq_some_iff op k).mp hk).symm⟩
  · have hkind : some k = some k' := by rw [← decodeKind_opcode k, hcode, decodeKind_opcode]
    exact Option.some.inj hkind

/-! ### Instructions and nibbles (30_encoding.md R80, R81) -/

theorem decode_opcode (k : Kind) (d : Nibble) : decode (opcode k) d = instrOf k d := by
  rw [decode, decodeKind_opcode]

theorem decode_unassigned (op d : Nibble) (h : 12 ≤ op.toNat) : decode op d = .unk op d := by
  rw [decode, (decodeKind_eq_none_iff op).mpr h]

theorem encode_instrOf (k : Kind) (d : Nibble) : encode (instrOf k d) = (opcode k, d) := by
  cases k <;> rfl

theorem instrOf_wellFormed (k : Kind) (d : Nibble) : (instrOf k d).wellFormed = true := by
  cases k <;> rfl

theorem instrOf_ne_unk (k : Kind) (d op d' : Nibble) : instrOf k d ≠ .unk op d' := by
  cases k <;> exact Instr.noConfusion

/-- A well-formed instruction is one of the 12 kinds, or carries an unassigned opcode. -/
theorem wellFormed_cases (i : Instr) (h : i.wellFormed = true) :
    (∃ k d, i = instrOf k d) ∨ ∃ op d, 12 ≤ op.toNat ∧ i = .unk op d := by
  cases i with
  | unk op d => exact .inr ⟨op, d, of_decide_eq_true h, rfl⟩
  | nop d => exact .inl ⟨.nop, d, rfl⟩
  | lda d => exact .inl ⟨.lda, d, rfl⟩
  | ldaR d => exact .inl ⟨.ldaR, d, rfl⟩
  | staR d => exact .inl ⟨.staR, d, rfl⟩
  | add d => exact .inl ⟨.add, d, rfl⟩
  | addR d => exact .inl ⟨.addR, d, rfl⟩
  | sub d => exact .inl ⟨.sub, d, rfl⟩
  | subR d => exact .inl ⟨.subR, d, rfl⟩
  | jmp d => exact .inl ⟨.jmp, d, rfl⟩
  | brz d => exact .inl ⟨.brz, d, rfl⟩
  | brc d => exact .inl ⟨.brc, d, rfl⟩
  | brn d => exact .inl ⟨.brn, d, rfl⟩

theorem decode_encode (i : Instr) (h : i.wellFormed = true) : decode (encode i).1 (encode i).2 = i := by
  obtain ⟨k, d, rfl⟩ | ⟨op, d, hop, rfl⟩ := wellFormed_cases i h
  · rw [encode_instrOf, decode_opcode]
  · exact decode_unassigned op d hop

/-- A decoded pair is an assigned opcode's kind, or an unassigned opcode's `unk`. -/
theorem decode_cases (op d : Nibble) :
    (∃ k, op = opcode k ∧ decode op d = instrOf k d) ∨ (12 ≤ op.toNat ∧ decode op d = .unk op d) := by
  by_cases h : op.toNat < 12
  · obtain ⟨k, hk⟩ := exists_decodeKind_of_lt op h
    obtain rfl := (decodeKind_eq_some_iff op k).mp hk
    exact .inl ⟨k, rfl, decode_opcode k d⟩
  · exact .inr ⟨by omega, decode_unassigned op d (by omega)⟩

theorem decode_wellFormed (op d : Nibble) : (decode op d).wellFormed = true := by
  obtain ⟨k, -, hdec⟩ | ⟨hop, hdec⟩ := decode_cases op d
  · rw [hdec, instrOf_wellFormed]
  · rw [hdec]; exact decide_eq_true hop

theorem encode_decode (op d : Nibble) : encode (decode op d) = (op, d) := by
  obtain ⟨k, rfl, hdec⟩ | ⟨-, hdec⟩ := decode_cases op d
  · rw [hdec, encode_instrOf]
  · rw [hdec]; rfl

/-! ### The 8-bit presentation (30_encoding.md R81) -/

theorem presentation_lt (op d : Nibble) : presentation (op, d) < 256 := by
  have hop := op.isLt
  have hd := d.isLt
  simp only [presentation]
  omega

theorem opNibble_presentation (op d : Nibble) : opNibble (presentation (op, d)) = op := by
  have hop := op.isLt
  have hd := d.isLt
  refine BitVec.eq_of_toNat_eq ?_
  simp only [opNibble, presentation, BitVec.toNat_ofNat]
  omega

theorem dataNibble_presentation (op d : Nibble) : dataNibble (presentation (op, d)) = d := by
  have hd := d.isLt
  refine BitVec.eq_of_toNat_eq ?_
  simp only [dataNibble, presentation, BitVec.toNat_ofNat]
  omega

/-- Decoding a presentation is decoding its two nibbles. -/
theorem decodeTableWord_presentation (w : Nibble × Nibble) :
    decodeTableWord 8 (presentation w) = some (decode w.1 w.2) := by
  obtain ⟨op, d⟩ := w
  rw [decodeTableWord, if_pos ⟨rfl, presentation_lt op d⟩, opNibble_presentation, dataNibble_presentation]

theorem decodeTableWord_eq_some (w : Nat) (i : Instr) (h : decodeTableWord 8 w = some i) :
    decode (opNibble w) (dataNibble w) = i := by
  unfold decodeTableWord at h
  split at h
  · exact Option.some.inj h
  · cases h

/-- Settles O3. -/
theorem decodeEncodeAgree : Obligations.DecodeEncodeAgree := by
  refine ⟨fun i hi => ⟨decode_encode i hi, ?_⟩, fun op d => ⟨decode_wellFormed op d, encode_decode op d⟩⟩
  rw [decodeTableWord_presentation, decode_encode i hi]

/-- Settles O2: each word is the presentation of its two nibbles, whose opcode is a row of the table. -/
theorem sampleWordsDecode : Obligations.SampleWordsDecode :=
  ⟨decodeTableWord_presentation (0x0, 0), decodeTableWord_presentation (0x1, 1), decodeTableWord_presentation (0x2, 15),
    decodeTableWord_presentation (0x3, 15), decodeTableWord_presentation (0x4, 2), decodeTableWord_presentation (0x6, 1),
    decodeTableWord_presentation (0x8, 1), decodeTableWord_presentation (0xB, 2), decodeTableWord_presentation (0xE, 7)⟩

end Sys2Proof

namespace Sys2Proof.Machine

/-! ### A placed word (30_encoding.md R81; 44_system_run_control.md R213) -/

theorem withFetchWord_loaded (s : State) (nbits w : Nat) : loaded (s.withFetchWord nbits w) = true := by
  rw [loaded_iff]
  simp only [State.withFetchWord]
  split
  · decide
  · assumption

theorem fetchInstr_withFetchWord (s : State) (nbits w : Nat) :
    fetchInstr (s.withFetchWord nbits w) = decode (opNibble w) (dataNibble w) := by
  simp [fetchInstr, fetchWord, State.withFetchWord, Memory.read_write_same]

/-- Settles O8: placing a word makes the hardware loaded, and the word is what is fetched. -/
theorem placedWordRunsNext : Obligations.PlacedWordRunsNext := by
  intro s w i hw
  rw [step, if_pos (withFetchWord_loaded s 8 w), fetchInstr_withFetchWord, decodeTableWord_eq_some w i hw]

/-! ### Branch offsets (30_encoding.md R85) -/

/-- Settles O26: mod 16, adding `16 - k` is subtracting `k`. -/
theorem backwardBranchWraps : Obligations.BackwardBranchWraps := by
  intro pc0 k hlow hhigh
  have hpc := pc0.isLt
  rw [branchTarget_eq]
  refine BitVec.eq_of_toNat_eq ?_
  rw [BitVec.toNat_add, BitVec.toNat_sub, BitVec.toNat_ofNat, BitVec.toNat_ofNat]
  omega

end Sys2Proof.Machine
end

section
/-! PROOFS. The Memory Encoder (spec/30_encoding.md R120 to R128): the image of a sequence, and the state that a Load
leaves. -/

namespace Sys2Proof.Machine

/-! ### One instruction at its position (30_encoding.md R122, R123) -/

theorem kindNamed_name (k : Kind) : kindNamed (Kind.name k) = some k := by
  cases k <;> decide

/-- The name of a kind never meets the encoder's fallback. -/
theorem opcodeNamed_name (i : Nat) (k : Kind) : opcodeNamed i (Kind.name k) = (opcode k, []) := by
  rw [opcodeNamed, kindNamed_name]

theorem kindNamed_eq_none (name : Token) (h : ∀ k, Kind.name k ≠ name) : kindNamed name = none :=
  List.find?_eq_none.mpr fun k _ => by simpa using h k

/-- Settles O48. -/
theorem encoderFallsBackToNop : Obligations.EncoderFallsBackToNop := by
  intro i name hname
  rw [opcodeNamed, kindNamed_eq_none name hname]
  exact ⟨rfl, rfl⟩

/-- The data nibble that an operand stands for, over the nibble that stood there before. -/
def operandNibble (x : Operand) (before : Nibble) : Nibble :=
  match Operand.value x with
  | some v => mask4 v
  | none => before

theorem read_writeOperand (i k : Nat) (x : Operand) (m : Memory) :
    Memory.read (writeOperand i x m) k = if k = i then operandNibble x (Memory.read m k) else Memory.read m k := by
  unfold writeOperand operandNibble
  cases Operand.value x with
  | none => simp
  | some v => exact Memory.read_write m i k _

theorem read_encodeNode_imem (i k : Nat) (node : Node) (m : Image) :
    Memory.read (encodeNode i node m).imem k = if k = i then opcode node.kind else Memory.read m.imem k := by
  rw [encodeNode, opcodeNamed_name, Memory.read_write]

theorem read_encodeNode_dmem (i k : Nat) (node : Node) (m : Image) :
    Memory.read (encodeNode i node m).dmem k =
      if k = i then operandNibble node.operand (Memory.read m.dmem k) else Memory.read m.dmem k :=
  read_writeOperand i k node.operand m.dmem

theorem encodeNode_events (i : Nat) (node : Node) (m : Image) : (encodeNode i node m).events = m.events := by
  rw [encodeNode, opcodeNamed_name, List.append_nil]

/-! ### A sequence from a position on (30_encoding.md R120) -/

theorem encodeFrom_cons (i : Nat) (node : Node) (seq : List Node) (m : Image) :
    encodeFrom i (node :: seq) m = encodeFrom (i + 1) seq (encodeNode i node m) := rfl

/-- Below and above its positions a sequence writes nothing. -/
theorem read_encodeFrom_outside (i k : Nat) (seq : List Node) (m : Image) (h : k < i ∨ i + seq.length ≤ k) :
    Memory.read (encodeFrom i seq m).imem k = Memory.read m.imem k ∧
      Memory.read (encodeFrom i seq m).dmem k = Memory.read m.dmem k := by
  induction seq generalizing i m with
  | nil => exact ⟨rfl, rfl⟩
  | cons node seq ih =>
    rw [List.length_cons] at h
    obtain ⟨himem, hdmem⟩ := ih (i + 1) (encodeNode i node m) (by omega)
    have hk : k ≠ i := by omega
    rw [encodeFrom_cons, himem, hdmem, read_encodeNode_imem, read_encodeNode_dmem, if_neg hk, if_neg hk]
    exact ⟨rfl, rfl⟩

/-- At each of its positions a sequence leaves its node's opcode and operand. -/
theorem read_encodeFrom_at (i j : Nat) (seq : List Node) (node : Node) (m : Image) (h : seq[j]? = some node) :
    Memory.read (encodeFrom i seq m).imem (i + j) = opcode node.kind ∧
      Memory.read (encodeFrom i seq m).dmem (i + j) = operandNibble node.operand (Memory.read m.dmem (i + j)) := by
  induction seq generalizing i j m with
  | nil => simp at h
  | cons first seq ih =>
    cases j with
    | zero =>
      obtain rfl : first = node := by simpa using h
      obtain ⟨himem, hdmem⟩ := read_encodeFrom_outside (i + 1) i seq (encodeNode i first m) (by omega)
      rw [Nat.add_zero, encodeFrom_cons, himem, hdmem, read_encodeNode_imem, read_encodeNode_dmem, if_pos rfl,
        if_pos rfl]
      exact ⟨rfl, rfl⟩
    | succ j =>
      obtain ⟨himem, hdmem⟩ := ih (i + 1) j (encodeNode i first m) (by simpa using h)
      have hpos : i + (j + 1) = i + 1 + j := by omega
      have hne : i + 1 + j ≠ i := by omega
      rw [encodeFrom_cons, hpos, himem, hdmem, read_encodeNode_dmem, if_neg hne]
      exact ⟨rfl, rfl⟩

theorem encodeFrom_events (i : Nat) (seq : List Node) (m : Image) : (encodeFrom i seq m).events = m.events := by
  induction seq generalizing i m with
  | nil => rfl
  | cons node seq ih => rw [encodeFrom_cons, ih, encodeNode_events]

/-! ### Canonical memories -/

/-- Both memories of an image have the canonical form. -/
def ImageWf (m : Image) : Prop := Memory.wf m.imem ∧ Memory.wf m.dmem

theorem encodeNode_wf (i : Nat) (node : Node) (m : Image) (hm : ImageWf m) (hi : i < Config.depth) :
    ImageWf (encodeNode i node m) := by
  obtain ⟨himem, hdmem⟩ := hm
  refine ⟨Memory.write_wf _ _ _ himem hi, ?_⟩
  simp only [encodeNode, writeOperand]
  split
  · exact Memory.write_wf _ _ _ hdmem hi
  · exact hdmem

theorem encodeFrom_wf (i : Nat) (seq : List Node) (m : Image) (hm : ImageWf m) (hlen : i + seq.length ≤ Config.depth) :
    ImageWf (encodeFrom i seq m) := by
  induction seq generalizing i m with
  | nil => exact hm
  | cons node seq ih =>
    rw [List.length_cons] at hlen
    exact ih (i + 1) _ (encodeNode_wf i node m hm (by omega)) (by omega)

/-! ### The image of a program (30_encoding.md R121, R127, R128) -/

/-- What Load is defined for, as a conjunction. -/
theorem programOk_iff (seq : List Node) :
    programOk seq = true ↔ seq ≠ [] ∧ seq.length ≤ Config.maxProg ∧ ∀ node ∈ seq, node.loadable = true := by
  simp [programOk, and_assoc]

theorem program_length_le (p : Program) : p.nodes.length ≤ Config.maxProg := by
  obtain ⟨-, hlen, -⟩ := (programOk_iff p.nodes).mp p.ok
  exact hlen

theorem imageOf_events (seq : List Node) : (imageOf seq).events = [] := encodeFrom_events 0 seq Image.zero

theorem imageOf_wf (p : Program) : ImageWf (imageOf p.nodes) := by
  have hlen : 0 + p.nodes.length ≤ Config.depth := by rw [Nat.zero_add]; exact program_length_le p
  exact encodeFrom_wf 0 p.nodes Image.zero ⟨Memory.wf_nil, Memory.wf_nil⟩ hlen

theorem read_imageOf_at (seq : List Node) (i : Nat) (node : Node) (h : seq[i]? = some node) :
    Memory.read (imageOf seq).imem i = opcode node.kind ∧
      Memory.read (imageOf seq).dmem i = operandNibble node.operand 0 := by
  simpa [imageOf, Image.zero, Memory.read_nil, Memory.unlisted] using read_encodeFrom_at 0 i seq node Image.zero h

theorem read_imageOf_above (seq : List Node) (k : Nat) (h : seq.length ≤ k) :
    Memory.read (imageOf seq).imem k = 0 ∧ Memory.read (imageOf seq).dmem k = 0 :=
  read_encodeFrom_outside 0 k seq Image.zero (by omega)

/-! ### Load and Reset (30_encoding.md R124, R125; 10_state.md R275) -/

theorem load_icount_val (p : Program) (s : State) : (load p s).icount.val = p.nodes.length := by
  have hlen : p.nodes.length ≤ 16 := program_length_le p
  exact Nat.mod_eq_of_lt (by omega)

theorem load_holdsImage (p : Program) (s : State) : HoldsImage p (load p s) :=
  ⟨fun i node h => read_imageOf_at p.nodes i node h, fun k h => read_imageOf_above p.nodes k h, load_icount_val p s⟩

/-- A Load writes the memories and `ICOUNT` alone; the encoder logs nothing. -/
theorem load_eq (p : Program) (s : State) :
    load p s = { s with imem := (load p s).imem, dmem := (load p s).dmem, icount := (load p s).icount } := by
  have hlog : (load p s).log = s.log := by rw [load_log, imageOf_events, List.append_nil]
  rw [← hlog]
  rfl

/-- Settles O47. -/
theorem loadWritesTheImage : Obligations.LoadWritesTheImage :=
  fun p s => ⟨load_holdsImage p s, load_eq p s⟩

/-- Settles O49: Load and Reset write different elements, and each keeps the log. -/
theorem loadAndResetCommute : Obligations.LoadAndResetCommute :=
  fun p s => ⟨rfl, load_holdsImage p (resetOp s), load_eq p (resetOp s)⟩

end Sys2Proof.Machine
end

section
/-! PROOFS. The invariant of the host operations and of builds (spec/44_system_run_control.md R211;
spec/30_encoding.md R126, R128; spec/42_arithmetic.md R176). -/

namespace Sys2Proof.Machine

/-! ### The flags describe the accumulator (42_arithmetic.md R176) -/

theorem accumulate_flagsDescribeAcc (r : Int) (s : State) : FlagsDescribeAcc (accumulate r s) :=
  ⟨rfl, fun hz => eq_of_beq hz⟩

/-- Each of the six instructions is an accumulation without a transfer (10_state.md R24). -/
theorem arm_of_writesAcc (i : Instr) (s : State) (h : writesAcc i = true) :
    ∃ r, arm i s = noTransfer (accumulate r s) := by
  cases i with
  | lda | ldaR | add | addR | sub | subR => exact ⟨_, rfl⟩
  | nop | staR | jmp | brz | brc | brn | unk => cases h

theorem arm_keeps_flagsDescribeAcc (i : Instr) (s : State) (h : FlagsDescribeAcc s) :
    FlagsDescribeAcc (arm i s).state := by
  by_cases hi : writesAcc i = true
  · obtain ⟨r, hr⟩ := arm_of_writesAcc i s hi
    rw [hr]
    exact accumulate_flagsDescribeAcc r s
  · obtain ⟨ha, hz, hn, -⟩ := arm_keeps_acc i s (by simpa using hi)
    rwa [FlagsDescribeAcc, ha, hz, hn]

/-! ### The invariant inside a Run

`RUNNING` is 1 while a Run is under way, so its loop keeps the host's invariant but for that clause. -/

/-- The host's invariant without its clause about `RUNNING`. -/
def CoreInv (s : State) : Prop := MemoriesWf s ∧ OpcodesAssigned s ∧ FlagsDescribeAcc s

theorem hostInv_iff (s : State) : HostInv s ↔ CoreInv s ∧ s.running = false := by
  simp only [HostInv, CoreInv, and_assoc]

/-- No arm writes `IMEM`, so the opcodes stay assigned. -/
theorem arm_keeps_coreInv (i : Instr) (s : State) (h : CoreInv s) : CoreInv (arm i s).state := by
  obtain ⟨hwf, hops, hflags⟩ := h
  obtain ⟨himem, -⟩ := arm_keeps i s
  refine ⟨arm_keeps_memoriesWf i s hwf, ?_, arm_keeps_flagsDescribeAcc i s hflags⟩
  rwa [OpcodesAssigned, himem]

/-- The advance writes `PC` alone. -/
theorem advance_coreInv_iff (pc0 : Nibble) (e : Executed) : CoreInv (advance pc0 e) ↔ CoreInv e.state := by
  simp only [CoreInv, advance_memoriesWf_iff, OpcodesAssigned, FlagsDescribeAcc, advance_imem, advance_a, advance_z,
    advance_n]

theorem cycle_keeps_coreInv (s : State) (h : CoreInv s) : CoreInv (cycle s).state :=
  (advance_coreInv_iff s.pc _).mpr (arm_keeps_coreInv (fetchInstr s) s h)

theorem cycle_keeps_running (s : State) : (cycle s).state.running = s.running := by
  obtain ⟨-, -, hrunning, -⟩ := arm_keeps (fetchInstr s) s
  rw [cycle, advance_running, hrunning]

/-! Run's own writes are to the control flags and the log, of which the core invariant does not speak. -/

theorem stopRun_coreInv_iff (e : Event) (s : State) : CoreInv (stopRun e s) ↔ CoreInv s := Iff.rfl

theorem clearDebug_coreInv_iff (s : State) : CoreInv (clearDebug s) ↔ CoreInv s := Iff.rfl

/-- The core invariant of the state a turn of Run's loop leaves, with `RUNNING` 0 where the turn returns. -/
def TurnInv (r : RunTurn) : Prop :=
  match r with
  | .returns _ t => CoreInv t ∧ t.running = false
  | .goesOn _ t => CoreInv t

theorem runTurn_turnInv (b : Option Nat) (n : Nat) (s : State) (h : CoreInv s) : TurnInv (runTurn b n s) := by
  have hcycle : CoreInv (cycle s).state := cycle_keeps_coreInv s h
  obtain ⟨-, hturn⟩ | ⟨-, -, hturn⟩ | ⟨-, -, -, hturn⟩ | ⟨-, -, -, hturn⟩ := runTurn_cases b n s
  · rw [hturn]
    exact ⟨(stopRun_coreInv_iff _ s).mpr h, stopRun_running _ s⟩
  · rw [hturn]
    exact ⟨(stopRun_coreInv_iff _ s).mpr h, stopRun_running _ s⟩
  · rw [hturn]
    exact ⟨(clearDebug_coreInv_iff _).mpr ((stopRun_coreInv_iff _ _).mpr hcycle), rfl⟩
  · rw [hturn]
    exact hcycle

theorem runLoop_keeps_coreInv (b : Option Nat) (f n : Nat) (s t : State) (o : RunOutcome) (h : CoreInv s)
    (hr : runLoop b f n s = some (o, t)) : CoreInv t ∧ t.running = false := by
  induction f generalizing n s with
  | zero => simp [runLoop_zero] at hr
  | succ f ih =>
    have hkeep : TurnInv (runTurn b n s) := runTurn_turnInv b n s h
    rw [runLoop_succ] at hr
    cases hturn : runTurn b n s with
    | returns o' t' =>
      obtain ⟨rfl, rfl⟩ : o' = o ∧ t' = t := by simpa [hturn] using hr
      simpa [hturn, TurnInv] using hkeep
    | goesOn m s' =>
      exact ih m s' (by simpa [hturn, TurnInv] using hkeep) (by simpa [hturn] using hr)

/-! ### The host operations (44_system_run_control.md R211) -/

theorem reset_hostInv : HostInv State.reset := by
  refine ⟨resetMemoriesCanonical, fun k => ?_, ⟨rfl, fun _ => rfl⟩, rfl⟩
  rw [State.reset, Memory.read_nil]
  decide

theorem load_opcodesAssigned (p : Program) (s : State) : OpcodesAssigned (load p s) := by
  intro k
  rw [load_imem]
  cases hk : p.nodes[k]? with
  | none =>
    obtain ⟨himem, -⟩ := read_imageOf_above p.nodes k (List.getElem?_eq_none_iff.mp hk)
    rw [himem]
    decide
  | some node =>
    obtain ⟨himem, -⟩ := read_imageOf_at p.nodes k node hk
    rw [himem]
    exact opcode_lt node.kind

theorem load_keeps_hostInv (p : Program) (s : State) (h : HostInv s) : HostInv (load p s) := by
  obtain ⟨-, -, hflags, hrunning⟩ := h
  exact ⟨imageOf_wf p, load_opcodesAssigned p s, hflags, hrunning⟩

theorem resetOp_keeps_hostInv (s : State) (h : HostInv s) : HostInv (resetOp s) := by
  obtain ⟨hwf, hops, -, -⟩ := h
  exact ⟨hwf, hops, by simp [FlagsDescribeAcc], rfl⟩

theorem stepOp_keeps_hostInv (s : State) (h : HostInv s) : HostInv (stepOp s) := by
  rw [hostInv_iff] at h ⊢
  obtain ⟨hcore, hrunning⟩ := h
  unfold stepOp
  split
  · exact ⟨cycle_keeps_coreInv s hcore, (cycle_keeps_running s).trans hrunning⟩
  · exact ⟨hcore, hrunning⟩

theorem run_keeps_hostInv (b : Option Nat) (s t : State) (o : RunOutcome) (h : HostInv s) (hr : RunReturns b s o t) :
    HostInv t := by
  obtain ⟨fuel, hr⟩ := hr
  by_cases hl : loaded s = true
  · simp only [runFuel, hl, if_true] at hr
    obtain ⟨hcore, -⟩ := (hostInv_iff s).mp h
    exact (hostInv_iff t).mpr (runLoop_keeps_coreInv b fuel 0 (setRunning true s) t o hcore hr)
  · obtain ⟨-, rfl⟩ : _ ∧ s = t := by simpa [runFuel, hl] using hr
    exact h

theorem hostStep_keeps_hostInv (op : HostOp) (s t : State) (h : HostInv s) (hst : HostStep op s t) : HostInv t := by
  cases hst with
  | load p => exact load_keeps_hostInv p s h
  | reset => exact resetOp_keeps_hostInv s h
  | step => exact stepOp_keeps_hostInv s h
  | run _ _ o hr => exact run_keeps_hostInv _ s t o h hr
  | debugOn => exact h

/-! ### Builds (30_encoding.md R126) -/

/-- A build whose sequence Load is defined for logs the diagnostics and loads the sequence. -/
theorem build_of_programOk (src : List Char) (s : State)
    (h : programOk (AsmResult.sequence (assemble src).result) = true) :
    build src s = load ⟨_, h⟩ { s with log := s.log ++ (assemble src).events } :=
  dif_pos h

/-- Any other build logs the diagnostics only. -/
theorem build_of_not_programOk (src : List Char) (s : State)
    (h : ¬ programOk (AsmResult.sequence (assemble src).result) = true) :
    build src s = { s with log := s.log ++ (assemble src).events } :=
  dif_neg h

/-- Settles O58. -/
theorem failedBuildLoadsNothing : Obligations.FailedBuildLoadsNothing := by
  intro src s hempty
  refine build_of_not_programOk src s ?_
  rw [hempty]
  decide

/-- The invariant does not speak of the log, so a build's diagnostics keep it, and then its Load does. -/
theorem build_keeps_hostInv (src : List Char) (s : State) (h : HostInv s) : HostInv (build src s) := by
  by_cases hok : programOk (AsmResult.sequence (assemble src).result) = true
  · rw [build_of_programOk src s hok]
    exact load_keeps_hostInv _ _ h
  · rw [build_of_not_programOk src s hok]
    exact h

/-! ### The states the host can reach -/

theorem hostReachable_hostInv (s : State) (h : HostReachable s) : HostInv s := by
  induction h with
  | init => exact reset_hostInv
  | op o s t _ hst ih => exact hostStep_keeps_hostInv o s t ih hst
  | build src s _ ih => exact build_keeps_hostInv src s ih

/-- Settles O50. -/
theorem hostReachableInvariant : Obligations.HostReachableInvariant :=
  ⟨reset_hostInv, hostStep_keeps_hostInv, build_keeps_hostInv, hostReachable_hostInv⟩

/-- Settles O51: every opcode in `IMEM` is assigned, so what is fetched decodes to one of the 12 kinds. -/
theorem unassignedOpcodeUnreachable : Obligations.UnassignedOpcodeUnreachable := by
  intro s hs op d hfetch
  obtain ⟨-, hops, -, -⟩ := hostReachable_hostInv s hs
  have hlt : (fetchWord s.pc s).1.toNat < 12 := hops s.pc.toNat
  obtain ⟨k, -, hdec⟩ | ⟨hge, -⟩ := decode_cases (fetchWord s.pc s).1 (fetchWord s.pc s).2
  · exact instrOf_ne_unk k _ op d (hdec.symm.trans hfetch)
  · omega

end Sys2Proof.Machine
end

section
/-! PROOFS. One line of source text (spec/30_encoding.md R99 to R104): the operand forms, and the node that a line reads
as. -/

namespace Sys2Proof.Machine

/-! ### Operand forms (30_encoding.md R100, R101) -/

/-- A numeric operand is an immediate where it begins with `#`, and a data slot otherwise. -/
theorem numericForm_cases (t : Token) :
    (∃ number, t = '#' :: number ∧ numericForm t = .immediate number) ∨ ∃ number, numericForm t = .slot number := by
  unfold numericForm
  split
  · exact .inl ⟨_, rfl, rfl⟩
  · split
    · exact .inr ⟨_, rfl⟩
    · exact .inr ⟨_, rfl⟩
  · exact .inr ⟨_, rfl⟩

/-- Every mnemonic but `JMP` takes a numeric operand. -/
theorem operandForm_some (m : Mnemonic) (t : Token) (h : m ≠ .jmp) : operandForm m (some t) = numericForm t :=
  if_neg h

theorem classify_of_selectKind_none (m : Mnemonic) (o : Option Token) (h : selectKind m (operandForm m o) = none) :
    classify m o = .error .malformed := by
  rw [classify, h]

theorem selectKind_nop_numericForm (t : Token) : selectKind .nop (numericForm t) = none := by
  obtain ⟨number, -, hform⟩ | ⟨number, hform⟩ := numericForm_cases t
  · rw [hform]; rfl
  · rw [hform]; rfl

theorem selectKind_absent (m : Mnemonic) (h : m ≠ .nop) : selectKind m .absent = none := by
  cases m with
  | nop => exact absurd rfl h
  | lda | sta | add | sub | jmp | brz | brc | brn => rfl

/-- The three relative branches take no data slot. -/
theorem selectKind_branch_slot (m : Mnemonic) (number : Token) (h : m = .brz ∨ m = .brc ∨ m = .brn) :
    selectKind m (.slot number) = none := by
  obtain rfl | rfl | rfl := h
  · rfl
  · rfl
  · rfl

/-- Settles O52. -/
theorem formsWithoutOpcodeAreMalformed : Obligations.FormsWithoutOpcodeAreMalformed := by
  refine ⟨fun t => ?sta, fun t => ?nop, fun m hm => ?absent, fun m t hm ht => ?branch⟩
  case sta => exact classify_of_selectKind_none .sta _ rfl
  case nop =>
    refine classify_of_selectKind_none .nop _ ?_
    rw [operandForm_some .nop t (by decide), selectKind_nop_numericForm]
  case absent => exact classify_of_selectKind_none m none (selectKind_absent m hm)
  case branch =>
    have hjmp : m ≠ .jmp := by rintro rfl; simp at hm
    refine classify_of_selectKind_none m _ ?_
    rw [operandForm_some m t hjmp]
    obtain ⟨number, rfl, -⟩ | ⟨number, hform⟩ := numericForm_cases t
    · exact absurd rfl ht
    · rw [hform, selectKind_branch_slot m number hm]

/-! ### The node of a line (30_encoding.md R92, R101, R102, R104) -/

theorem classify_eq_ok (m : Mnemonic) (o : Option Token) (k : Kind) (x : Operand) (h : classify m o = .ok (k, x)) :
    selectKind m (operandForm m o) = some k ∧ operandOf (operandForm m o) = some x := by
  unfold classify at h
  split at h
  · cases h
  · next hkind =>
    split at h
    · cases h
    · next hoperand => cases h; exact ⟨hkind, hoperand⟩

theorem readLine_eq_ok (toks : List Token) (raw : Node) (h : readLine toks = .ok raw) :
    ∃ o, classify raw.base o = .ok (raw.kind, raw.operand) := by
  unfold readLine at h
  split at h
  · cases h
  split at h
  · cases h
  split at h
  · cases h
  split at h
  · cases h
  · next hclass => cases h; exact ⟨_, hclass⟩

/-- A `JMP` that still names a label. -/
def UnresolvedJump (n : Node) : Prop := n.base = .jmp ∧ n.kind = .jmp ∧ ∃ name, n.operand = .labelRef name

/-- The table of R101: a form with a kind makes a node that Load accepts, or a `JMP` that still names its label. -/
theorem loadable_or_unresolvedJump (m : Mnemonic) (f : OperandForm) (k : Kind) (x : Operand) (label : Option LabelName)
    (hk : selectKind m f = some k) (hx : operandOf f = some x) :
    Node.loadable ⟨m, k, x, label⟩ = true ∨ UnresolvedJump ⟨m, k, x, label⟩ := by
  cases f with
  | absent =>
    obtain rfl : Operand.none = x := Option.some.inj hx
    cases m <;> cases hk
    exact .inl rfl
  | immediate number =>
    obtain ⟨n, -, rfl⟩ := Option.map_eq_some_iff.mp hx
    cases m <;> cases hk <;> exact .inl rfl
  | slot number =>
    obtain ⟨n, -, rfl⟩ := Option.map_eq_some_iff.mp hx
    cases m <;> cases hk <;> exact .inl rfl
  | target name =>
    obtain rfl : Operand.labelRef name = x := Option.some.inj hx
    cases m <;> cases hk
    exact .inr ⟨rfl, rfl, name, rfl⟩

theorem readLine_loadable_or_unresolvedJump (toks : List Token) (raw : Node) (h : readLine toks = .ok raw) :
    raw.loadable = true ∨ UnresolvedJump raw := by
  obtain ⟨o, hclass⟩ := readLine_eq_ok toks raw h
  obtain ⟨hkind, hoperand⟩ := classify_eq_ok raw.base o raw.kind raw.operand hclass
  exact loadable_or_unresolvedJump raw.base _ raw.kind raw.operand raw.label hkind hoperand

theorem not_loadable_of_labelRef (n : Node) (name : LabelName) (h : n.operand = .labelRef name) :
    n.loadable ≠ true := by
  obtain ⟨base, kind, operand, label⟩ := n
  obtain rfl : operand = .labelRef name := h
  simp [Node.loadable]

/-- Only a `JMP` names a label (30_encoding.md R102). -/
theorem unresolvedJump_of_labelRef (toks : List Token) (raw : Node) (name : LabelName) (h : readLine toks = .ok raw)
    (hop : raw.operand = .labelRef name) : UnresolvedJump raw :=
  (readLine_loadable_or_unresolvedJump toks raw h).resolve_left (not_loadable_of_labelRef raw name hop)

/-- A resolved `JMP` is loadable where its address is one of the 16 (30_encoding.md R107, R127). -/
theorem unresolvedJump_resolved_loadable (raw : Node) (addr : Nat) (h : UnresolvedJump raw) (ha : addr < Config.depth) :
    Node.loadable { raw with operand := .resolvedAddress addr } = true := by
  obtain ⟨hbase, hkind, -⟩ := h
  simp only [Node.loadable, hbase, hkind, ha, decide_true]

end Sys2Proof.Machine
end

section
/-! PROOFS. The two passes of the assembler (spec/30_encoding.md R102 to R108): what a successful assembly is. -/

namespace Sys2Proof.Machine

/-! ### The relation between lines and nodes -/

/-- `node` is `raw`, or a `JMP` read as `raw` whose label the table has resolved (30_encoding.md R102, R107). -/
inductive Resolves (labels : List (LabelName × Nat)) (raw : Node) : Node → Prop where
  | same : Resolves labels raw raw
  | label (name : LabelName) (addr : Nat) : raw.operand = .labelRef name → labels.lookup name = some addr →
      Resolves labels raw { raw with operand := .resolvedAddress addr }

/-- `node` is the instruction that `line` yields, under the label table `labels`. -/
def LineNode (labels : List (LabelName × Nat)) (line : List Char) (node : Node) : Prop :=
  ∃ raw, readLine (tokens line) = .ok raw ∧ Resolves labels raw node

/-- The label table holds exactly the declared labels, each at the address of its declaration (30_encoding.md R105,
R106). -/
def LabelTable (labels : List (LabelName × Nat)) (declared : List (Option LabelName)) : Prop :=
  ∀ (name : LabelName) (addr : Nat), labels.lookup name = some addr ↔ declared[addr]? = some (some name)

/-- Every node that still names a label is queued (30_encoding.md R102). -/
def Queued (queue : List Nat) (seq : List Node) : Prop :=
  ∀ (i : Nat) (node : Node) (name : LabelName), seq[i]? = some node → node.operand = .labelRef name → i ∈ queue

/-- What both passes keep: the lines read so far and their nodes, the label table, and the queue. -/
structure Assembling (labels : List (LabelName × Nat)) (queue : List Nat) (lines : List (List Char))
    (seq : List Node) : Prop where
  nodes : List.Forall₂ (LineNode labels) lines seq
  room : seq.length ≤ Config.maxProg
  table : LabelTable labels (seq.map Node.label)
  queued : Queued queue seq

/-- A `JMP` already resolved names no label any more. -/
theorem resolves_labelRef_eq (labels : List (LabelName × Nat)) (raw node : Node) (name : LabelName)
    (h : Resolves labels raw node) (hop : node.operand = .labelRef name) : node = raw := by
  cases h with
  | same => rfl
  | label => cases hop

/-- A larger table resolves what a smaller one did. -/
theorem lineNode_append (labels more : List (LabelName × Nat)) (line : List Char) (node : Node)
    (h : LineNode labels line node) : LineNode (labels ++ more) line node := by
  obtain ⟨raw, hread, hres⟩ := h
  refine ⟨raw, hread, ?_⟩
  cases hres with
  | same => exact .same
  | label name addr hop haddr =>
    exact .label name addr hop (by rw [List.lookup_append, haddr, Option.some_or])

/-! ### One line of the first pass (30_encoding.md R104) -/

/-- Step 3 leaves an operand that is no label, resolves a declared label, and queues any other. -/
theorem resolveNow_cases (k : Nat) (node : Node) (p : Pass) :
    ((∀ name, node.operand ≠ .labelRef name) ∧ resolveNow k node p = (node, p)) ∨
    (∃ name addr, node.operand = .labelRef name ∧ p.labels.lookup name = some addr ∧
      resolveNow k node p = ({ node with operand := .resolvedAddress addr }, p)) ∨
    (∃ name, node.operand = .labelRef name ∧
      resolveNow k node p = (node, { p with
        queue := p.queue ++ [p.seq.length]
        events := p.events ++ [.forwardReference name k] })) := by
  unfold resolveNow
  split
  · next name hop =>
    split
    · next addr haddr => exact .inr (.inl ⟨name, addr, hop, haddr, rfl⟩)
    · exact .inr (.inr ⟨name, hop, rfl⟩)
  · next hop => exact .inl ⟨hop, rfl⟩

theorem resolveNow_keeps (k : Nat) (node : Node) (p : Pass) :
    (resolveNow k node p).2.seq = p.seq ∧ (resolveNow k node p).2.labels = p.labels ∧
      (resolveNow k node p).1.label = node.label := by
  obtain ⟨-, h⟩ | ⟨name, addr, -, -, h⟩ | ⟨name, -, h⟩ := resolveNow_cases k node p
  · rw [h]; exact ⟨rfl, rfl, rfl⟩
  · rw [h]; exact ⟨rfl, rfl, rfl⟩
  · rw [h]; exact ⟨rfl, rfl, rfl⟩

theorem resolveNow_resolves (k : Nat) (raw : Node) (p : Pass) : Resolves p.labels raw (resolveNow k raw p).1 := by
  obtain ⟨-, h⟩ | ⟨name, addr, hop, haddr, h⟩ | ⟨name, -, h⟩ := resolveNow_cases k raw p
  · rw [h]; exact .same
  · rw [h]; exact .label name addr hop haddr
  · rw [h]; exact .same

theorem getElem?_concat_eq_some_iff {α : Type} (xs : List α) (x y : α) (i : Nat) :
    (xs ++ [x])[i]? = some y ↔ xs[i]? = some y ∨ (i = xs.length ∧ x = y) := by
  obtain hlt | rfl | hgt := Nat.lt_trichotomy i xs.length
  · rw [List.getElem?_append_left hlt]
    simp [hlt.ne]
  · simp
  · rw [List.getElem?_eq_none hgt.le, List.getElem?_eq_none (by simpa using hgt)]
    simp [hgt.ne']

theorem queued_append (queue more : List Nat) (seq : List Node) (node : Node) (h : Queued queue seq)
    (hnode : ∀ name, node.operand = .labelRef name → seq.length ∈ more) :
    Queued (queue ++ more) (seq ++ [node]) := by
  intro i x name hi hop
  rw [List.mem_append]
  obtain hold | ⟨rfl, rfl⟩ := (getElem?_concat_eq_some_iff seq node x i).mp hi
  · exact .inl (h i x name hold hop)
  · exact .inr (hnode name hop)

theorem resolveNow_queued (k : Nat) (raw : Node) (p : Pass) (h : Queued p.queue p.seq) :
    Queued (resolveNow k raw p).2.queue (p.seq ++ [(resolveNow k raw p).1]) := by
  obtain ⟨hop, hnow⟩ | ⟨name, addr, -, -, hnow⟩ | ⟨name, -, hnow⟩ := resolveNow_cases k raw p
  · rw [hnow, ← List.append_nil p.queue]
    exact queued_append p.queue [] p.seq raw h fun name hname => absurd hname (hop name)
  · rw [hnow, ← List.append_nil p.queue]
    exact queued_append p.queue [] p.seq _ h fun _ hname => by cases hname
  · rw [hnow]
    exact queued_append p.queue [p.seq.length] p.seq raw h fun _ _ => List.mem_singleton_self _

/-- The entry that a line's label, if any, adds to the label table. -/
def labelEntry (label : Option LabelName) (addr : Nat) : List (LabelName × Nat) :=
  match label with
  | none => []
  | some name => [(name, addr)]

theorem declareLabel_eq_ok (k : Nat) (label : Option LabelName) (p q : Pass) (h : declareLabel k label p = .ok q) :
    q = { p with labels := p.labels ++ labelEntry label p.seq.length } ∧
      ∀ name, label = some name → p.labels.lookup name = none := by
  unfold declareLabel at h
  split at h
  · cases h
    exact ⟨by rw [labelEntry, List.append_nil], fun name hname => by cases hname⟩
  · next name =>
    split at h
    · cases h
    · next hfresh =>
      cases h
      exact ⟨rfl, fun name' hname => by cases hname; exact hfresh⟩

theorem appendNode_eq_ok (k : Nat) (node : Node) (p q : Pass) (h : appendNode k node p = .ok q) :
    p.seq.length ≠ Config.maxProg ∧ q = { p with seq := p.seq ++ [node] } := by
  unfold appendNode at h
  split at h
  · cases h
  · next hroom => cases h; exact ⟨hroom, rfl⟩

/-- A line that does not abort the first pass reads as a node, declares no label twice, and finds room. -/
theorem passLine_eq_ok (k : Nat) (line : List Char) (p q : Pass) (h : passLine k line p = .ok q) :
    ∃ raw, readLine (tokens line) = .ok raw ∧ (∀ name, raw.label = some name → p.labels.lookup name = none) ∧
      p.seq.length ≠ Config.maxProg ∧
      q = ⟨p.seq ++ [(resolveNow k raw p).1], p.labels ++ labelEntry raw.label p.seq.length,
        (resolveNow k raw p).2.queue, (resolveNow k raw p).2.events⟩ := by
  unfold passLine at h
  split at h
  · cases h
  · cases h
  · next raw hread =>
    split at h
    · cases h
    · next p' hdecl =>
      obtain ⟨hseq, hlabels, -⟩ := resolveNow_keeps k raw p
      obtain ⟨rfl, hfresh⟩ := declareLabel_eq_ok k raw.label _ p' hdecl
      obtain ⟨hroom, rfl⟩ := appendNode_eq_ok k _ _ q h
      rw [hlabels] at hfresh
      rw [hseq] at hroom
      exact ⟨raw, hread, hfresh, hroom, by rw [hseq, hlabels]⟩

theorem labelEntry_lookup_eq_some_iff (label : Option LabelName) (name : LabelName) (addr addr' : Nat) :
    (labelEntry label addr).lookup name = some addr' ↔ label = some name ∧ addr' = addr := by
  cases label with
  | none => simp [labelEntry]
  | some name' =>
    by_cases hname : name = name'
    · simp [labelEntry, hname, eq_comm]
    · simp [labelEntry, List.lookup_cons, beq_false_of_ne hname, Ne.symm hname]

/-- A fresh label extends the table as its line extends the declarations (30_encoding.md R106). -/
theorem labelTable_append (labels : List (LabelName × Nat)) (declared : List (Option LabelName))
    (label : Option LabelName) (h : LabelTable labels declared)
    (hfresh : ∀ name, label = some name → labels.lookup name = none) :
    LabelTable (labels ++ labelEntry label declared.length) (declared ++ [label]) := by
  intro name addr
  rw [List.lookup_append, Option.or_eq_some_iff, labelEntry_lookup_eq_some_iff, getElem?_concat_eq_some_iff, h name addr]
  constructor
  · rintro (hold | ⟨-, hlabel, rfl⟩)
    · exact .inl hold
    · exact .inr ⟨rfl, hlabel⟩
  · rintro (hold | ⟨rfl, hlabel⟩)
    · exact .inl hold
    · exact .inr ⟨hfresh name hlabel, hlabel, rfl⟩

/-- The first pass keeps what is assembled so far, one line at a time. -/
theorem passLine_keeps_assembling (k : Nat) (lines : List (List Char)) (line : List Char) (p q : Pass)
    (h : Assembling p.labels p.queue lines p.seq) (hline : passLine k line p = .ok q) :
    Assembling q.labels q.queue (lines ++ [line]) q.seq := by
  obtain ⟨hnodes, hroom, htable, hqueued⟩ := h
  obtain ⟨raw, hread, hfresh, hfull, rfl⟩ := passLine_eq_ok k line p q hline
  obtain ⟨-, -, hlabel⟩ := resolveNow_keeps k raw p
  refine ⟨?nodes, ?room, ?table, resolveNow_queued k raw p hqueued⟩
  case nodes =>
    have hnew : LineNode p.labels line (resolveNow k raw p).1 := ⟨raw, hread, resolveNow_resolves k raw p⟩
    exact (List.rel_append hnodes (.cons hnew .nil)).imp fun l n => lineNode_append p.labels _ l n
  case room =>
    show (p.seq ++ [(resolveNow k raw p).1]).length ≤ Config.maxProg
    rw [List.length_append, List.length_singleton]
    omega
  case table =>
    show LabelTable _ ((p.seq ++ [(resolveNow k raw p).1]).map Node.label)
    rw [List.map_append, List.map_singleton, hlabel, ← List.length_map Node.label]
    exact labelTable_append p.labels _ raw.label htable hfresh

theorem firstPass_keeps_assembling (k : Nat) (read lines : List (List Char)) (p q : Pass)
    (h : Assembling p.labels p.queue read p.seq) (hpass : firstPass k lines p = .ok q) :
    Assembling q.labels q.queue (read ++ lines) q.seq := by
  induction lines generalizing k read p with
  | nil =>
    cases hpass
    rwa [List.append_nil]
  | cons line lines ih =>
    unfold firstPass at hpass
    split at hpass
    · cases hpass
    · next p' hline =>
      have := ih (k + 1) (read ++ [line]) p' (passLine_keeps_assembling k read line p p' h hline) hpass
      rwa [List.append_assoc] at this

/-! ### The second pass (30_encoding.md R107) -/

/-- A queued index is resolved where its node names a label, and left alone otherwise. -/
theorem resolveQueued_eq_ok (labels : List (LabelName × Nat)) (i : Nat) (seq seq' : List Node)
    (h : resolveQueued labels i seq = .ok seq') :
    (seq' = seq ∧ ∀ node name, seq[i]? = some node → node.operand ≠ .labelRef name) ∨
    ∃ node name addr, seq[i]? = some node ∧ node.operand = .labelRef name ∧ labels.lookup name = some addr ∧
      seq' = seq.set i { node with operand := .resolvedAddress addr } := by
  unfold resolveQueued at h
  split at h
  · next hnone => cases h; exact .inl ⟨rfl, fun node name hnode => by rw [hnone] at hnode; cases hnode⟩
  · next node hnode =>
    split at h
    · next name hop =>
      split at h
      · next addr haddr => cases h; exact .inr ⟨node, name, addr, hnode, hop, haddr, rfl⟩
      · cases h
    · next hop =>
      cases h
      exact .inl ⟨rfl, fun node' name hnode' => by
        obtain rfl : node = node' := Option.some.inj (hnode.symm.trans hnode')
        exact hop name⟩

/-- Replacing an element that `R` relates only as it does the new one keeps two lists related. -/
theorem forall₂_set {α β : Type} (R : α → β → Prop) (xs : List α) (ys : List β) (i : Nat) (y z : β)
    (h : List.Forall₂ R xs ys) (hy : ys[i]? = some y) (hz : ∀ x, R x y → R x z) : List.Forall₂ R xs (ys.set i z) := by
  induction h generalizing i with
  | nil => exact .nil
  | cons hxy htail ih =>
    cases i with
    | zero =>
      obtain rfl := Option.some.inj hy
      exact .cons (hz _ hxy) htail
    | succ i => exact .cons hxy (ih i hy)

theorem map_label_set_operand (seq : List Node) (i : Nat) (node : Node) (x : Operand) (h : seq[i]? = some node) :
    (seq.set i { node with operand := x }).map Node.label = seq.map Node.label := by
  refine List.ext_getElem? fun j => ?_
  by_cases hj : i = j
  · subst hj
    have hlt : i < seq.length := (List.getElem?_eq_some_iff.mp h).1
    rw [List.getElem?_map, List.getElem?_map, h, List.getElem?_set_self hlt]
    rfl
  · rw [List.getElem?_map, List.getElem?_map, List.getElem?_set_ne hj]

theorem resolveQueued_keeps_assembling (labels : List (LabelName × Nat)) (i : Nat) (queue : List Nat)
    (lines : List (List Char)) (seq seq' : List Node) (h : Assembling labels (i :: queue) lines seq)
    (hi : resolveQueued labels i seq = .ok seq') : Assembling labels queue lines seq' := by
  obtain ⟨hnodes, hroom, htable, hqueued⟩ := h
  obtain ⟨rfl, hop⟩ | ⟨node, name, addr, hnode, hop, haddr, rfl⟩ := resolveQueued_eq_ok labels i seq seq' hi
  · refine ⟨hnodes, hroom, htable, fun j x name hx hname => ?_⟩
    obtain rfl | hj := List.mem_cons.mp (hqueued j x name hx hname)
    · exact absurd hname (hop x name hx)
    · exact hj
  · refine ⟨forall₂_set _ _ _ _ _ _ hnodes hnode ?nodes, ?room, ?table, ?queued⟩
    case nodes =>
      rintro line ⟨raw, hread, hres⟩
      obtain rfl := resolves_labelRef_eq labels raw node name hres hop
      exact ⟨node, hread, .label name addr hop haddr⟩
    case room => rwa [List.length_set]
    case table => rwa [map_label_set_operand seq i node _ hnode]
    case queued =>
      intro j x name' hx hname
      by_cases hj : i = j
      · subst hj
        have hlt : i < seq.length := (List.getElem?_eq_some_iff.mp hnode).1
        rw [List.getElem?_set_self hlt] at hx
        cases hx
        cases hname
      · rw [List.getElem?_set_ne hj] at hx
        exact (List.mem_cons.mp (hqueued j x name' hx hname)).resolve_left (Ne.symm hj)

theorem secondPass_keeps_assembling (labels : List (LabelName × Nat)) (queue : List Nat) (lines : List (List Char))
    (seq seq' : List Node) (h : Assembling labels queue lines seq) (hpass : secondPass labels queue seq = .ok seq') :
    Assembling labels [] lines seq' := by
  induction queue generalizing seq with
  | nil =>
    cases hpass
    exact h
  | cons i queue ih =>
    unfold secondPass at hpass
    split at hpass
    · cases hpass
    · next seq₁ hi => exact ih seq₁ (resolveQueued_keeps_assembling labels i queue lines seq seq₁ h hi) hpass

/-! ### The whole assembly (30_encoding.md R90) -/

/-- An assembly fails in the first pass, fails in the second, or succeeds. -/
theorem assemble_cases (src : List Char) :
    (∃ a, firstPass 1 (sourceLines src) ⟨[], [], [], []⟩ = .error a ∧
      assemble src = ⟨.err a.error, a.events ++ [AsmError.event a.error]⟩) ∨
    (∃ p e, firstPass 1 (sourceLines src) ⟨[], [], [], []⟩ = .ok p ∧
      secondPass p.labels p.queue p.seq = .error e ∧ assemble src = ⟨.err e, p.events ++ [AsmError.event e]⟩) ∨
    ∃ p seq, firstPass 1 (sourceLines src) ⟨[], [], [], []⟩ = .ok p ∧
      secondPass p.labels p.queue p.seq = .ok seq ∧ assemble src = ⟨.ok seq, p.events⟩ := by
  unfold assemble
  split
  · next a ha => exact .inl ⟨a, ha, rfl⟩
  · next p hp =>
    split
    · next e he => exact .inr (.inl ⟨p, e, hp, he, rfl⟩)
    · next seq hseq => exact .inr (.inr ⟨p, seq, hp, hseq, rfl⟩)

theorem assembling_nil : Assembling [] [] [] [] where
  nodes := .nil
  room := Nat.zero_le _
  table := fun name addr => by simp
  queued := fun i node name h => by simp at h

/-- A successful assembly: every line has its node, and no label is left to resolve. -/
theorem assemble_ok_assembling (src : List Char) (seq : List Node) (h : (assemble src).result = .ok seq) :
    ∃ labels, Assembling labels [] (sourceLines src) seq := by
  obtain ⟨a, -, hasm⟩ | ⟨p, e, -, -, hasm⟩ | ⟨p, seq', hfirst, hsecond, hasm⟩ := assemble_cases src
  · rw [hasm] at h; cases h
  · rw [hasm] at h; cases h
  · rw [hasm] at h
    cases h
    have hp := firstPass_keeps_assembling 1 [] (sourceLines src) ⟨[], [], [], []⟩ p assembling_nil hfirst
    exact ⟨p.labels, secondPass_keeps_assembling p.labels p.queue _ p.seq seq hp hsecond⟩

end Sys2Proof.Machine
end

section
/-! PROOFS. What the assembler's result is (spec/30_encoding.md R90, R105 to R110, R127), and the build that loads it
(R126). -/

namespace Sys2Proof.Machine

/-! ### A successful assembly -/

/-- The `i`-th line and the `i`-th node belong together. -/
theorem assembling_lineNode_at (labels : List (LabelName × Nat)) (queue : List Nat) (lines : List (List Char))
    (seq : List Node) (i : Nat) (line : List Char) (h : Assembling labels queue lines seq)
    (hline : lines[i]? = some line) : ∃ node, seq[i]? = some node ∧ LineNode labels line node := by
  obtain ⟨hi, rfl⟩ := List.getElem?_eq_some_iff.mp hline
  have hi' : i < seq.length := by rwa [← h.nodes.length_eq]
  exact ⟨seq[i], List.getElem?_eq_getElem hi', h.nodes.get hi hi'⟩

/-- A node of an assembly comes from a line. -/
theorem assembling_lineNode_of_mem (labels : List (LabelName × Nat)) (queue : List Nat) (lines : List (List Char))
    (seq : List Node) (node : Node) (h : Assembling labels queue lines seq) (hnode : node ∈ seq) :
    ∃ line, LineNode labels line node := by
  obtain ⟨i, hi, rfl⟩ := List.mem_iff_getElem.mp hnode
  have hi' : i < lines.length := by rwa [h.nodes.length_eq]
  exact ⟨lines[i], h.nodes.get hi' hi⟩

/-- A successful assembly leaves no label to resolve. -/
theorem assembling_no_labelRef (labels : List (LabelName × Nat)) (lines : List (List Char)) (seq : List Node)
    (node : Node) (name : LabelName) (h : Assembling labels [] lines seq) (hnode : node ∈ seq) :
    node.operand ≠ .labelRef name := by
  obtain ⟨i, hi⟩ := List.mem_iff_getElem?.mp hnode
  exact fun hop => List.not_mem_nil (h.queued i node name hi hop)

/-- A declared label's address is that of a node, and of the one node that declares it. -/
theorem assembling_lookup_iff (labels : List (LabelName × Nat)) (queue : List Nat) (lines : List (List Char))
    (seq : List Node) (name : LabelName) (addr : Nat) (h : Assembling labels queue lines seq) :
    labels.lookup name = some addr ↔ ∃ target, seq[addr]? = some target ∧ target.label = some name := by
  rw [h.table name addr, List.getElem?_map, Option.map_eq_some_iff]

theorem assembling_loadable (labels : List (LabelName × Nat)) (lines : List (List Char)) (seq : List Node) (node : Node)
    (h : Assembling labels [] lines seq) (hnode : node ∈ seq) : node.loadable = true := by
  obtain ⟨line, raw, hread, hres⟩ := assembling_lineNode_of_mem labels [] lines seq node h hnode
  cases hres with
  | same =>
    refine (readLine_loadable_or_unresolvedJump _ node hread).resolve_right ?_
    rintro ⟨-, -, name, hop⟩
    exact assembling_no_labelRef labels lines seq node name h hnode hop
  | label name addr hop haddr =>
    obtain ⟨target, htarget, -⟩ := (assembling_lookup_iff labels [] lines seq name addr h).mp haddr
    have hlt : addr < seq.length := (List.getElem?_eq_some_iff.mp htarget).1
    have hjump : UnresolvedJump raw := unresolvedJump_of_labelRef _ raw name hread hop
    exact unresolvedJump_resolved_loadable raw addr hjump (Nat.lt_of_lt_of_le hlt h.room)

/-- Settles O53. -/
theorem successfulAssemblyIsLoadable : Obligations.SuccessfulAssemblyIsLoadable := by
  intro src seq hok hne
  obtain ⟨labels, h⟩ := assemble_ok_assembling src seq hok
  exact (programOk_iff seq).mpr ⟨hne, h.room, fun node => assembling_loadable labels _ seq node h⟩

/-- Resolving a `JMP` changes its operand alone; any other node stands as its line reads. -/
theorem resolves_keeps (labels : List (LabelName × Nat)) (toks : List Token) (raw node : Node)
    (hread : readLine toks = .ok raw) (h : Resolves labels raw node) :
    node.base = raw.base ∧ node.kind = raw.kind ∧ node.label = raw.label ∧
      (raw.kind ≠ .jmp → node.operand = raw.operand) := by
  cases h with
  | same => exact ⟨rfl, rfl, rfl, fun _ => rfl⟩
  | label name addr hop _ =>
    obtain ⟨-, hkind, -⟩ := unresolvedJump_of_labelRef toks raw name hread hop
    exact ⟨rfl, rfl, rfl, fun hne => absurd hkind hne⟩

/-- Settles O54. -/
theorem oneInstructionPerLine : Obligations.OneInstructionPerLine := by
  intro src seq hok
  obtain ⟨labels, h⟩ := assemble_ok_assembling src seq hok
  refine ⟨h.nodes.length_eq.symm, fun i line hline => ?_⟩
  obtain ⟨node, hnode, raw, hread, hres⟩ := assembling_lineNode_at labels [] _ seq i line h hline
  exact ⟨raw, node, hread, hnode, resolves_keeps labels _ raw node hread hres⟩

/-- Settles O55: an unresolved `JMP` would still be queued, and the label table's address of a name is unique. -/
theorem jumpsResolveToTheirLabels : Obligations.JumpsResolveToTheirLabels := by
  intro src seq i line raw name hok hline hread hop
  obtain ⟨labels, h⟩ := assemble_ok_assembling src seq hok
  obtain ⟨node, hnode, raw', hread', hres⟩ := assembling_lineNode_at labels [] _ seq i line h hline
  obtain rfl : raw = raw' := Except.ok.inj (hread.symm.trans hread')
  have hmem : node ∈ seq := List.mem_of_getElem? hnode
  cases hres with
  | same => exact absurd hop (assembling_no_labelRef labels _ seq raw name h hmem)
  | label name' addr hop' haddr =>
    obtain rfl : name = name' := Operand.labelRef.inj (hop.symm.trans hop')
    have hlookup := assembling_lookup_iff labels [] (sourceLines src) seq name
    obtain ⟨target, htarget, hlabel⟩ := (hlookup addr h).mp haddr
    refine ⟨addr, target, htarget, hlabel, fun addr' target' htarget' hlabel' => ?_, _, hnode, rfl⟩
    have haddr' : labels.lookup name = some addr' := (hlookup addr' h).mpr ⟨target', htarget', hlabel'⟩
    exact Option.some.inj (haddr'.symm.trans haddr)

/-- Settles O56: a successful assembly has a node for each line, and room for 16. -/
theorem tooManyLinesFail : Obligations.TooManyLinesFail := by
  intro src hlen
  cases hres : (assemble src).result with
  | err e => exact ⟨e, rfl⟩
  | ok seq =>
    obtain ⟨labels, h⟩ := assemble_ok_assembling src seq hres
    have hlines : (sourceLines src).length = seq.length := h.nodes.length_eq
    have hroom : seq.length ≤ 16 := h.room
    omega

/-! ### A failed assembly (30_encoding.md R109) -/

/-- Every diagnostic is of severity info. -/
def InfoOnly (es : List Event) : Prop := ∀ e ∈ es, e.severity = .info

theorem infoOnly_append (es : List Event) (e : Event) (h : InfoOnly es) (he : e.severity = .info) :
    InfoOnly (es ++ [e]) := by
  intro x hx
  obtain hold | hnew := List.mem_append.mp hx
  · exact h x hold
  · rwa [List.mem_singleton.mp hnew]

theorem error_event_severity (e : AsmError) : (AsmError.event e).severity = .error := by
  cases e <;> rfl

/-- The diagnostics emitted by a part of the first pass, aborted or not. -/
def emitted (r : Except Abort Pass) : List Event :=
  match r with
  | .error a => a.events
  | .ok q => q.events

/-- A forward reference is the one diagnostic of step 3 (30_encoding.md R102). -/
theorem resolveNow_infoOnly (k : Nat) (node : Node) (p : Pass) (h : InfoOnly p.events) :
    InfoOnly (resolveNow k node p).2.events := by
  obtain ⟨-, hnow⟩ | ⟨name, addr, -, -, hnow⟩ | ⟨name, -, hnow⟩ := resolveNow_cases k node p
  · rwa [hnow]
  · rwa [hnow]
  · rw [hnow]
    exact infoOnly_append p.events _ h rfl

theorem declareLabel_emitted (k : Nat) (label : Option LabelName) (p : Pass) :
    emitted (declareLabel k label p) = p.events := by
  unfold declareLabel
  split
  · rfl
  · split <;> rfl

theorem appendNode_emitted (k : Nat) (node : Node) (p : Pass) : emitted (appendNode k node p) = p.events := by
  unfold appendNode
  split <;> rfl

theorem passLine_infoOnly (k : Nat) (line : List Char) (p : Pass) (h : InfoOnly p.events) :
    InfoOnly (emitted (passLine k line p)) := by
  unfold passLine
  split
  · exact h
  · exact h
  · next raw _ =>
    have hnow := resolveNow_infoOnly k raw p h
    rw [← declareLabel_emitted k raw.label] at hnow
    split
    · next a hdecl => rwa [hdecl] at hnow
    · next q hdecl =>
      rw [appendNode_emitted]
      rwa [hdecl] at hnow

theorem firstPass_infoOnly (k : Nat) (lines : List (List Char)) (p : Pass) (h : InfoOnly p.events) :
    InfoOnly (emitted (firstPass k lines p)) := by
  induction lines generalizing k p with
  | nil => exact h
  | cons line lines ih =>
    have hline := passLine_infoOnly k line p h
    unfold firstPass
    split
    · next a ha => rwa [ha] at hline
    · next q hq =>
      rw [hq] at hline
      exact ih (k + 1) q hline

/-- An assembly's diagnostics are those of its first pass, and its error's at the end. -/
theorem assemble_err_events (src : List Char) (e : AsmError) (h : (assemble src).result = .err e) :
    (assemble src).events = emitted (firstPass 1 (sourceLines src) ⟨[], [], [], []⟩) ++ [AsmError.event e] := by
  obtain ⟨a, hfirst, hasm⟩ | ⟨p, e', hfirst, -, hasm⟩ | ⟨p, seq, -, -, hasm⟩ := assemble_cases src
  · rw [hasm] at h ⊢
    cases h
    rw [hfirst, emitted]
  · rw [hasm] at h ⊢
    cases h
    rw [hfirst, emitted]
  · rw [hasm] at h
    cases h

/-- Settles O57. -/
theorem failedAssemblyHasOneError : Obligations.FailedAssemblyHasOneError := by
  intro src e herr
  refine ⟨by rw [herr, AsmResult.sequence], _, assemble_err_events src e herr, error_event_severity e, ?_⟩
  exact firstPass_infoOnly 1 _ _ fun x hx => absurd hx List.not_mem_nil

/-! ### The build of a successful assembly (30_encoding.md R126) -/

/-- Settles O59: the sequence is one that Load is defined for, so the build's check succeeds. -/
theorem successfulBuildLoads : Obligations.SuccessfulBuildLoads := by
  intro src s seq hok hne
  have hseq : AsmResult.sequence (assemble src).result = seq := by rw [hok, AsmResult.sequence]
  have hprog : programOk (AsmResult.sequence (assemble src).result) = true := by
    rw [hseq]
    exact successfulAssemblyIsLoadable src seq hok hne
  exact ⟨⟨_, hprog⟩, hseq, build_of_programOk src s hprog⟩

end Sys2Proof.Machine
end

section
/-! PROOFS. The cycle (spec/40_cycle.md): decoding, the step, `NOP` and the unassigned opcodes, and that a cycle depends
on its inputs alone. -/

namespace Sys2Proof.Machine

/-! ### The opcode table (40_cycle.md R142) -/

/-- Settles O1: the 12 codes are the kinds' own, and the other four are unassigned. -/
theorem opcodeTableBothDirections : Obligations.OpcodeTableBothDirections := by
  refine ⟨fun d => ?decode, ?kind⟩
  case decode =>
    exact ⟨decode_opcode .nop d, decode_opcode .lda d, decode_opcode .ldaR d, decode_opcode .staR d,
      decode_opcode .add d, decode_opcode .addR d, decode_opcode .sub d, decode_opcode .subR d,
      decode_opcode .jmp d, decode_opcode .brz d, decode_opcode .brc d, decode_opcode .brn d,
      decode_unassigned 0xC d (by decide), decode_unassigned 0xD d (by decide),
      decode_unassigned 0xE d (by decide), decode_unassigned 0xF d (by decide)⟩
  case kind =>
    exact ⟨decodeKind_opcode .nop, decodeKind_opcode .lda, decodeKind_opcode .ldaR, decodeKind_opcode .staR,
      decodeKind_opcode .add, decodeKind_opcode .addR, decodeKind_opcode .sub, decodeKind_opcode .subR,
      decodeKind_opcode .jmp, decodeKind_opcode .brz, decodeKind_opcode .brc, decodeKind_opcode .brn,
      (decodeKind_eq_none_iff 0xC).mpr (by decide), (decodeKind_eq_none_iff 0xD).mpr (by decide),
      (decodeKind_eq_none_iff 0xE).mpr (by decide), (decodeKind_eq_none_iff 0xF).mpr (by decide),
      rfl, rfl, rfl, rfl, rfl, rfl, rfl, rfl, rfl, rfl, rfl, rfl⟩

/-! ### The step (40_cycle.md R140, R145) -/

/-- On loaded hardware a step is the meaning of the instruction fetched. -/
theorem step_of_loaded (s : State) (h : s.icount ≠ 0) : step s = exec (fetchInstr s) s :=
  if_pos ((loaded_iff s).mpr h)

/-- Settles O5: the instruction fetched is the decoded pair. That `i` is well formed is not needed. -/
theorem stepRunsTheDecodedInstruction : Obligations.StepRunsTheDecodedInstruction := by
  intro s i _ hl hdec
  have hinstr : fetchInstr s = i := hdec
  rw [step_of_loaded s hl, hinstr]

/-- Settles O7. -/
theorem everyStepCompletes : Obligations.EveryStepCompletes := step_eq_stepOp

/-! ### `NOP` and the unassigned opcodes (40_cycle.md R146, R147) -/

/-- An instruction whose arm signals no transfer leaves that arm's state, with `PC` at the next address. -/
theorem exec_noTransfer_pc (i : Instr) (s u : State) (h : arm i s = noTransfer u) :
    exec i s = .next { u with pc := s.pc + 1 } := by
  rw [exec_eq_arm, h, advance_noTransfer]

/-- Settles O9. -/
theorem nopAdvancesOnly : Obligations.NopAdvancesOnly := fun d s =>
  ⟨decode_opcode .nop d, rfl, exec_noTransfer_pc (.nop d) s s rfl⟩

/-- Settles O21: the arm of `UNK` is one `emit`. -/
theorem unassignedOpcodeIsLoggedNoOp : Obligations.UnassignedOpcodeIsLoggedNoOp := fun op d s hop =>
  ⟨decode_unassigned op d hop, rfl, rfl, exec_noTransfer_pc (.unk op d) s (emit (.unknownOpcode s.pc op) s) rfl⟩

/-! ### The inputs of a cycle (40_cycle.md R145)

Two states with the same CPU state, and the same word in the slot that the instruction names, are related by every arm:
it leaves the same CPU state and the same `xfer`, appends the same entries, and either keeps a word of `DMEM` in both or
stores the same one. -/

/-- Equal in the CPU state: `A`, `PC` and the flags. -/
def SameCpu (s t : State) : Prop := s.a = t.a ∧ s.pc = t.pc ∧ s.z = t.z ∧ s.n = t.n ∧ s.c = t.c

/-- Equal in the CPU state that step 3 of the cycle leaves, and in `xfer`. -/
def SameEffect (e e' : Executed) : Prop := SameCpu e.state e'.state ∧ e.xfer = e'.xfer

theorem SameInputs.sameCpu {s t : State} (h : SameInputs s t) : SameCpu s t := by
  obtain ⟨ha, hpc, hz, hn, hc, -, -⟩ := h
  exact ⟨ha, hpc, hz, hn, hc⟩

/-- `A <- SetFlags(r)` leaves `A` and the flags to `r`, and `PC` alone. -/
theorem sameEffect_accumulate {s t : State} {r r' : Int} (hr : r = r') (h : SameCpu s t) :
    SameEffect (noTransfer (accumulate r s)) (noTransfer (accumulate r' t)) := by
  subst hr
  obtain ⟨-, hpc, -⟩ := h
  exact ⟨⟨rfl, hpc, rfl, rfl, rfl⟩, rfl⟩

theorem sameEffect_transfer {s t : State} {x y : Nibble} (hxy : x = y) (h : SameCpu s t) :
    SameEffect (transfer x s) (transfer y t) := by
  obtain ⟨ha, -, hflags⟩ := h
  exact ⟨⟨ha, hxy, hflags⟩, rfl⟩

/-- A branch reads its flag and its own address. -/
theorem sameEffect_branchIf {s t : State} {f g : Bool} (d : Nibble) (hfg : f = g) (h : SameCpu s t) :
    SameEffect (branchIf f d s) (branchIf g d t) := by
  subst hfg
  cases f with
  | false => exact ⟨h, rfl⟩
  | true =>
    have ⟨_, hpc, _⟩ := h
    exact sameEffect_transfer (by rw [hpc]) h

/-- The data nibble of an instruction is `(encode i).2`: the only slot whose word an arm can read. -/
theorem arm_sameEffect (i : Instr) (s t : State) (h : SameCpu s t)
    (hslot : memRead (encode i).2 s = memRead (encode i).2 t) : SameEffect (arm i s) (arm i t) := by
  have ⟨ha, _, hz, hn, hc⟩ := h
  have hacc : accValue s = accValue t := by rw [accValue, ha, accValue]
  have hval : slotValue (encode i).2 s = slotValue (encode i).2 t := by rw [slotValue, hslot, slotValue]
  cases i with
  | nop d | staR d | unk op d => exact ⟨h, rfl⟩
  | lda d => exact sameEffect_accumulate rfl h
  | ldaR d => exact sameEffect_accumulate hval h
  | add d => exact sameEffect_accumulate (congrArg (· + immediate d) hacc) h
  | addR d => exact sameEffect_accumulate (congrArg₂ (· + ·) hacc hval) h
  | sub d => exact sameEffect_accumulate (congrArg (· + -immediate d) hacc) h
  | subR d => exact sameEffect_accumulate (congrArg₂ (· + -·) hacc hval) h
  | jmp d => exact sameEffect_transfer rfl h
  | brz d => exact sameEffect_branchIf d hz h
  | brc d => exact sameEffect_branchIf d hc h
  | brn d => exact sameEffect_branchIf d hn h

/-- The advance reads `pc0`, `xfer` and the `PC` that the arm left. -/
theorem advance_sameCpu (pc0 : Nibble) (e e' : Executed) (h : SameEffect e e') :
    SameCpu (advance pc0 e) (advance pc0 e') := by
  obtain ⟨⟨ha, hpc, hz, hn, hc⟩, hxfer⟩ := h
  simp [SameCpu, advance_pc, ha, hpc, hz, hn, hc, hxfer]

/-- An arm appends its entries to the state's own log. -/
theorem arm_log (i : Instr) (s : State) : (arm i s).state.log = s.log ++ armEvents i s.pc :=
  congrArg (·.state.log) (arm_withLog i s s.log)

/-- At each address an instruction's arm keeps the word, or stores the accumulator there, whatever the state. -/
theorem arm_keeps_or_stores (i : Instr) (k : Nat) :
    (∀ s, Memory.read (arm i s).state.dmem k = Memory.read s.dmem k) ∨
      ∀ s, Memory.read (arm i s).state.dmem k = s.a := by
  by_cases hi : ∃ d, i = .staR d
  · obtain ⟨d, rfl⟩ := hi
    by_cases hk : k = d.toNat
    · exact .inr fun s => hk ▸ Memory.read_write_same s.dmem d.toNat s.a
    · exact .inl fun s => Memory.read_write_other s.dmem d.toNat k s.a hk
  · exact .inl fun s => by rw [arm_keeps_dmem i s fun d hd => hi ⟨d, hd⟩]

/-- The instruction fetched encodes to the pair fetched. -/
theorem encode_fetchInstr (s : State) : encode (fetchInstr s) = fetchWord s.pc s := encode_decode _ _

/-- Settles O34: both states fetch one instruction, and its arm and the advance relate them. -/
theorem cycleDependsOnlyOnItsInputs : Obligations.CycleDependsOnlyOnItsInputs := by
  intro s t hls hlt hin
  have hcpu : SameCpu s t := hin.sameCpu
  obtain ⟨ha, hpc, -, -, -, hfetch, hslot⟩ := hin
  have hinstr : fetchInstr t = fetchInstr s := by rw [fetchInstr, ← hfetch, fetchInstr]
  have hs : stepOp s = advance s.pc (arm (fetchInstr s) s) := stepOp_of_loaded s hls
  have ht : stepOp t = advance s.pc (arm (fetchInstr s) t) := by rw [stepOp_of_loaded t hlt, hinstr, hpc]
  have heffect : SameEffect (arm (fetchInstr s) s) (arm (fetchInstr s) t) := by
    refine arm_sameEffect _ s t hcpu ?_
    rw [encode_fetchInstr, hslot, hfetch]
  obtain ⟨ha', hpc', hz', hn', hc'⟩ : SameCpu (stepOp s) (stepOp t) := by
    rw [hs, ht]
    exact advance_sameCpu s.pc _ _ heffect
  refine ⟨stepOp s, stepOp t, armEvents (fetchInstr s) s.pc, step_eq_stepOp s, step_eq_stepOp t,
    ha', hpc', hz', hn', hc', ?_, ?_, fun k => ?_⟩
  · rw [hs, advance_log, arm_log]
  · rw [ht, advance_log, arm_log, hpc]
  · rw [hs, ht, advance_dmem, advance_dmem]
    obtain hkeep | hstore := arm_keeps_or_stores (fetchInstr s) k
    · exact .inl ⟨hkeep s, hkeep t⟩
    · exact .inr (by rw [hstore s, hstore t, ha])

end Sys2Proof.Machine
end

section
/-! PROOFS. Loads and the store (spec/41_load_store.md R160 to R162), and the numeric source forms that select an
instruction (spec/30_encoding.md R100, R101). -/

namespace Sys2Proof.Machine

/-! ### Numeric source forms (30_encoding.md R100, R101, R103) -/

theorem numericForm_hashed (t : Token) : numericForm (hashed t) = .immediate t := rfl

theorem numericForm_parenthesised (t : Token) : numericForm (parenthesised t) = .slot t := by
  simp [numericForm, parenthesised]

/-- A `<uint>` begins with a digit. -/
theorem parseUint_head_isDigit (c : Char) (t : Token) (v : Nat) (h : parseUint (c :: t) = some v) :
    isDigit c = true := by
  unfold parseUint at h
  split at h
  · next hdigits =>
    obtain ⟨hc, -⟩ : isDigit c = true ∧ ∀ x ∈ t, isDigit x = true := by simpa using hdigits
    exact hc
  · cases h

/-- A `<uint>` carries neither of the marks `#` and `(`, so alone it is a data slot (the spec's decision D8, log 15). -/
theorem numericForm_of_parseUint (t : Token) (v : Nat) (h : parseUint t = some v) : numericForm t = .slot t := by
  unfold numericForm
  split
  · exact absurd (parseUint_head_isDigit '#' _ v h) (by decide)
  · exact absurd (parseUint_head_isDigit '(' _ v h) (by decide)
  · rfl

theorem classify_of_numericForm (m : Mnemonic) (t : Token) (f : OperandForm) (k : Kind) (x : Operand) (hm : m ≠ .jmp)
    (hform : numericForm t = f) (hkind : selectKind m f = some k) (hoperand : operandOf f = some x) :
    classify m (some t) = .ok (k, x) := by
  rw [classify, operandForm_some m t hm, hform, hkind, hoperand]

theorem operandOf_immediate (t : Token) (v : Nat) (h : parseUint t = some v) :
    operandOf (.immediate t) = some (.immediate v) := by
  rw [operandOf, h, Option.map_some]

theorem operandOf_slot (t : Token) (v : Nat) (h : parseUint t = some v) :
    operandOf (.slot t) = some (.registerRef v) := by
  rw [operandOf, h, Option.map_some]

/-- `#n` selects the kind that the table of R101 gives the mnemonic with an immediate. -/
theorem sourceForm_hashed (m : Mnemonic) (k : Kind) (hm : m ≠ .jmp)
    (hkind : ∀ t, selectKind m (.immediate t) = some k) : SourceForm m hashed k .immediate := fun t v hv =>
  classify_of_numericForm m _ _ k _ hm (numericForm_hashed t) (hkind t) (operandOf_immediate t v hv)

/-- A spelling of a data slot selects the kind that the table of R101 gives the mnemonic with one. -/
theorem sourceForm_of_slot (m : Mnemonic) (f : Token → Token) (k : Kind) (hm : m ≠ .jmp)
    (hkind : ∀ t, selectKind m (.slot t) = some k)
    (hform : ∀ t v, parseUint t = some v → numericForm (f t) = .slot t) :
    SourceForm m f k .registerRef := fun t v hv =>
  classify_of_numericForm m _ _ k _ hm (hform t v hv) (hkind t) (operandOf_slot t v hv)

theorem sourceForm_parenthesised (m : Mnemonic) (k : Kind) (hm : m ≠ .jmp)
    (hkind : ∀ t, selectKind m (.slot t) = some k) : SourceForm m parenthesised k .registerRef :=
  sourceForm_of_slot m _ k hm hkind fun t _ _ => numericForm_parenthesised t

theorem sourceForm_bare (m : Mnemonic) (k : Kind) (hm : m ≠ .jmp)
    (hkind : ∀ t, selectKind m (.slot t) = some k) : SourceForm m bare k .registerRef :=
  sourceForm_of_slot m _ k hm hkind numericForm_of_parseUint

/-! ### The store (41_load_store.md R162) -/

/-- Settles O12: the arm of `STA_R` is one data write. -/
theorem staRStoresTheAccumulator : Obligations.StaRStoresTheAccumulator := by
  refine ⟨sourceForm_parenthesised .sta .staR (by decide) fun _ => rfl,
    sourceForm_bare .sta .staR (by decide) fun _ => rfl, fun d s => ⟨decode_opcode .staR d, ?_⟩⟩
  have hexec : exec (.staR d) s = .next { memWrite (slotAddress d) s.a s with pc := s.pc + 1 } :=
    exec_noTransfer_pc (.staR d) s _ rfl
  refine ⟨_, hexec, ?slot, rfl⟩
  case slot =>
    rintro x rfl
    exact ⟨Memory.read_write_same s.dmem _ s.a, fun k hk => Memory.read_write_other s.dmem _ k s.a hk⟩

/-! ### Loads (41_load_store.md R160, R161) -/

/-- `A <- SetFlags(v)` of a nibble: nothing is masked away. -/
theorem accumulate_nibble (v : Nibble) (s : State) :
    accumulate v.toNat s = { s with
      a := v, z := decide (v = 0), n := decide (8 ≤ v.toNat), c := decide (15 < v.toNat) } := by
  have hcarry : decide ((15 : Int) < v.toNat) = decide (15 < v.toNat) := by simp
  rw [accumulate_eq, mask4_nibble, hcarry]

/-- An instruction whose arm is `A <- SetFlags(v)` of a nibble loads `v`. -/
theorem exec_of_arm_accumulate_nibble (i : Instr) (v : Nibble) (s : State)
    (h : arm i s = noTransfer (accumulate v.toNat s)) :
    exec i s = .next { s with
      a := v, z := decide (v = 0), n := decide (8 ≤ v.toNat), c := decide (15 < v.toNat), pc := s.pc + 1 } := by
  rw [exec_noTransfer_pc i s _ h, accumulate_nibble]

/-- Settles O10: the immediate is the data nibble. -/
theorem ldaLoadsTheImmediate : Obligations.LdaLoadsTheImmediate :=
  ⟨sourceForm_hashed .lda .lda (by decide) fun _ => rfl, fun d s =>
    ⟨decode_opcode .lda d, exec_of_arm_accumulate_nibble (.lda d) d s rfl⟩⟩

/-- Settles O11: the slot's word is a nibble. -/
theorem ldaRLoadsTheSlot : Obligations.LdaRLoadsTheSlot :=
  ⟨sourceForm_parenthesised .lda .ldaR (by decide) fun _ => rfl,
    sourceForm_bare .lda .ldaR (by decide) fun _ => rfl, fun d s =>
    ⟨decode_opcode .ldaR d, exec_of_arm_accumulate_nibble (.ldaR d) (memRead d s) s rfl⟩⟩

end Sys2Proof.Machine
end

section
/-! PROOFS. Arithmetic (spec/42_arithmetic.md): the sums and differences of R170 to R173, and that the flags describe the
accumulator after a Reset and after every step (R176, R273). -/

namespace Sys2Proof.Machine

/-! ### The flags describe the accumulator (42_arithmetic.md R176; 70_reset_and_hazards.md R273) -/

theorem resetOp_flagsDescribeAcc (s : State) : FlagsDescribeAcc (resetOp s) := by
  rw [FlagsDescribeAcc, resetOp_n, resetOp_a]
  exact ⟨rfl, fun _ => rfl⟩

/-- Settles O32: `A` is 0 with `N` and `Z` clear. -/
theorem resetFlagsDescribeAcc : Obligations.ResetFlagsDescribeAcc := by
  obtain ⟨-, -, hflags, -⟩ := reset_hostInv
  exact ⟨⟨hflags, rfl, rfl⟩, fun s => ⟨resetOp_flagsDescribeAcc s, resetOp_a s, resetOp_z s⟩⟩

/-- The advance writes `PC` alone. -/
theorem advance_flagsDescribeAcc_iff (pc0 : Nibble) (e : Executed) :
    FlagsDescribeAcc (advance pc0 e) ↔ FlagsDescribeAcc e.state := by
  rw [FlagsDescribeAcc, advance_n, advance_a, advance_z, FlagsDescribeAcc]

theorem stepOp_keeps_flagsDescribeAcc (s : State) (h : FlagsDescribeAcc s) : FlagsDescribeAcc (stepOp s) := by
  by_cases hl : s.icount = 0
  · rwa [stepOp_of_not_loaded s hl]
  · rw [stepOp_of_loaded s hl, advance_flagsDescribeAcc_iff]
    exact arm_keeps_flagsDescribeAcc _ s h

/-- `A <- SetFlags(r)` sets `Z` and `N` from the masked result, which is what `A` then holds. -/
theorem accumulate_flags_iff (r : Int) (s : State) :
    ((accumulate r s).z = true ↔ (accumulate r s).a = 0) ∧
      ((accumulate r s).n = true ↔ 8 ≤ (accumulate r s).a.toNat) := by
  rw [accumulate_z, accumulate_n, accumulate_a, flagZ_eq, flagN_eq, decide_eq_true_iff, decide_eq_true_iff]
  exact ⟨Iff.rfl, Iff.rfl⟩

/-- After one of the six instructions `Z` and `N` say exactly what `A` holds, whatever they said before. -/
theorem stepOp_flags_iff_of_writesAcc (s : State) (hl : s.icount ≠ 0) (hi : writesAcc (fetchInstr s) = true) :
    ((stepOp s).z = true ↔ (stepOp s).a = 0) ∧ ((stepOp s).n = true ↔ 8 ≤ (stepOp s).a.toNat) := by
  obtain ⟨r, hr⟩ := arm_of_writesAcc (fetchInstr s) s hi
  rw [stepOp_of_loaded s hl, hr, advance_z, advance_n, advance_a]
  exact accumulate_flags_iff r s

/-- Settles O33. -/
theorem stepKeepsFlagsDescribeAcc : Obligations.StepKeepsFlagsDescribeAcc := by
  intro s t hflags hstep
  obtain rfl := (step_eq_next_iff s t).mp hstep
  exact ⟨stepOp_keeps_flagsDescribeAcc s hflags, stepOp_flags_iff_of_writesAcc s⟩

/-! ### Sums (42_arithmetic.md R170, R171) -/

/-- `A <- SetFlags(x + y)` of nibbles: the sum wraps, and `C` reports it. -/
theorem accumulate_sum (x y : Nibble) (s : State) :
    accumulate (x.toNat + y.toNat) s = { s with
      a := x + y, z := decide (x + y = 0), n := decide (8 ≤ (x + y).toNat), c := decide (15 < x.toNat + y.toNat) } := by
  have hcarry : decide ((15 : Int) < x.toNat + y.toNat) = decide (15 < x.toNat + y.toNat) :=
    decide_eq_decide.mpr (by omega)
  rw [accumulate_eq, mask4_add, hcarry]

/-- An instruction whose arm is `A <- SetFlags(A + v)` of a nibble adds `v`. -/
theorem exec_of_arm_accumulate_sum (i : Instr) (v : Nibble) (s : State)
    (h : arm i s = noTransfer (accumulate (s.a.toNat + v.toNat) s)) :
    exec i s = .next { s with
      a := s.a + v, z := decide (s.a + v = 0), n := decide (8 ≤ (s.a + v).toNat),
      c := decide (15 < s.a.toNat + v.toNat), pc := s.pc + 1 } := by
  rw [exec_noTransfer_pc i s _ h, accumulate_sum]

/-- Settles O13: the operand is the data nibble. -/
theorem addAddsTheImmediate : Obligations.AddAddsTheImmediate :=
  ⟨sourceForm_hashed .add .add (by decide) fun _ => rfl, fun d s =>
    ⟨decode_opcode .add d, exec_of_arm_accumulate_sum (.add d) d s rfl⟩⟩

/-- Settles O14: the operand is the slot's word. -/
theorem addRAddsTheSlot : Obligations.AddRAddsTheSlot :=
  ⟨sourceForm_parenthesised .add .addR (by decide) fun _ => rfl,
    sourceForm_bare .add .addR (by decide) fun _ => rfl, fun d s =>
    ⟨decode_opcode .addR d, exec_of_arm_accumulate_sum (.addR d) (memRead d s) s rfl⟩⟩

/-! ### Differences (42_arithmetic.md R172, R173) -/

/-- The difference of two nibbles, an integer, masks to their difference mod 16 (the spec's G1, log 9). -/
theorem mask4_difference (x y : Nibble) : mask4 ((x.toNat : Int) - y.toNat) = x - y := by
  rw [Int.sub_eq_add_neg, mask4_sub]

/-- `A <- SetFlags(x - y)` of nibbles: the integer difference never exceeds 15, so `C` is cleared (the spec's decision
D20, log 8). -/
theorem accumulate_difference (x y : Nibble) (s : State) :
    accumulate ((x.toNat : Int) - y.toNat) s = { s with
      a := x - y, z := decide (x = y), n := decide (8 ≤ (x - y).toNat), c := false } := by
  have hzero : decide (x - y = 0) = decide (x = y) := decide_eq_decide.mpr sub_eq_zero
  have hcarry : decide (15 < (x.toNat : Int) - y.toNat) = false := by
    have hlt : x.toNat < 16 := x.isLt
    exact decide_eq_false (by omega)
  rw [accumulate_eq, mask4_difference, hzero, hcarry]

/-- An instruction whose arm is `A <- SetFlags(A - v)` of a nibble subtracts `v`. -/
theorem exec_of_arm_accumulate_difference (i : Instr) (v : Nibble) (s : State)
    (h : arm i s = noTransfer (accumulate ((s.a.toNat : Int) - v.toNat) s)) :
    exec i s = .next { s with
      a := s.a - v, z := decide (s.a = v), n := decide (8 ≤ (s.a - v).toNat), c := false, pc := s.pc + 1 } := by
  rw [exec_noTransfer_pc i s _ h, accumulate_difference]

/-- Settles O15: the operand is the data nibble. -/
theorem subSubtractsTheImmediate : Obligations.SubSubtractsTheImmediate :=
  ⟨sourceForm_hashed .sub .sub (by decide) fun _ => rfl, fun d s =>
    ⟨decode_opcode .sub d, exec_of_arm_accumulate_difference (.sub d) d s (arm_sub d s)⟩⟩

/-- Settles O16: the operand is the slot's word. -/
theorem subRSubtractsTheSlot : Obligations.SubRSubtractsTheSlot :=
  ⟨sourceForm_parenthesised .sub .subR (by decide) fun _ => rfl,
    sourceForm_bare .sub .subR (by decide) fun _ => rfl, fun d s =>
    ⟨decode_opcode .subR d, exec_of_arm_accumulate_difference (.subR d) (memRead d s) s (arm_subR d s)⟩⟩

end Sys2Proof.Machine
end

section
/-! PROOFS. Control transfer (spec/43_control_transfer.md): the jump and the branches of R190 to R193, and the four
cases of a self-transfer (R199). -/

namespace Sys2Proof.Machine

/-! ### Jumps and branches (43_control_transfer.md R190 to R194) -/

/-- The operand of `JMP` is a label name whatever its spelling (the spec's decision D10, log 15). -/
theorem classify_jmp (name : Token) : classify .jmp (some name) = .ok (.jmp, .labelRef name) := rfl

/-- `JMP` is a control transfer to its data nibble. -/
theorem arm_jmp_eq_transfer (d : Nibble) (s : State) : arm (.jmp d) s = transfer d s :=
  congrArg (transfer · s) (jumpTarget_eq d)

/-- A taken branch leaves `PC` at its target, an untaken one at the next address; both leave everything else. -/
theorem advance_branchIf (flag : Bool) (d : Nibble) (s : State) :
    advance s.pc (branchIf flag d s) = { s with pc := if flag = true then s.pc + d else s.pc + 1 } := by
  cases flag with
  | false => exact advance_noTransfer s.pc s
  | true =>
    calc advance s.pc (branchIf true d s)
      _ = { s with pc := branchTarget s.pc d } := advance_transfer s.pc _ s
      _ = { s with pc := s.pc + d } := by rw [branchTarget_eq]

/-- An instruction whose arm is a branch on `flag` signals a transfer when `flag` is set, and goes where
`advance_branchIf` says. -/
theorem exec_of_arm_branchIf (i : Instr) (flag : Bool) (d : Nibble) (s : State) (h : arm i s = branchIf flag d s) :
    (arm i s).xfer = flag ∧ exec i s = .next { s with pc := if flag = true then s.pc + d else s.pc + 1 } := by
  rw [exec_eq_arm, h, advance_branchIf]
  exact ⟨branchIf_xfer flag d s, rfl⟩

/-- Settles O17. -/
theorem jmpSetsThePc : Obligations.JmpSetsThePc := by
  refine ⟨classify_jmp, fun d s => ⟨decode_opcode .jmp d, rfl, ?_⟩⟩
  rw [exec_eq_arm, arm_jmp_eq_transfer, advance_transfer]

/-- Settles O18: the arm of `BRZ` is a branch on `Z`. -/
theorem brzBranchesOnZero : Obligations.BrzBranchesOnZero :=
  ⟨sourceForm_hashed .brz .brz (by decide) fun _ => rfl, fun d s =>
    ⟨decode_opcode .brz d, exec_of_arm_branchIf (.brz d) s.z d s rfl⟩⟩

/-- Settles O19: the arm of `BRC` is a branch on `C`. -/
theorem brcBranchesOnCarry : Obligations.BrcBranchesOnCarry :=
  ⟨sourceForm_hashed .brc .brc (by decide) fun _ => rfl, fun d s =>
    ⟨decode_opcode .brc d, exec_of_arm_branchIf (.brc d) s.c d s rfl⟩⟩

/-- Settles O20: the arm of `BRN` is a branch on `N`. -/
theorem brnBranchesOnNegative : Obligations.BrnBranchesOnNegative :=
  ⟨sourceForm_hashed .brn .brn (by decide) fun _ => rfl, fun d s =>
    ⟨decode_opcode .brn d, exec_of_arm_branchIf (.brn d) s.n d s rfl⟩⟩

/-! ### Self-transfers (43_control_transfer.md R199)

A cycle is a self-transfer exactly when its arm is `transfer s.pc s`, and only `JMP` and a taken branch have an arm of
that form. -/

theorem ne_transfer_of_xfer_false (e : Executed) (t : Nibble) (s : State) (h : e.xfer = false) :
    e ≠ transfer t s := by
  rintro rfl
  exact Bool.false_ne_true h.symm

theorem transfer_inj_iff (x y : Nibble) (s : State) : transfer x s = transfer y s ↔ x = y :=
  ⟨fun h => congrArg (fun e : Executed => e.state.pc) h, fun h => congrArg (transfer · s) h⟩

/-- A branch goes to its own address exactly when it is taken with offset 0: the offset is added to that address. -/
theorem branchIf_eq_transfer_pc_iff (flag : Bool) (d : Nibble) (s : State) :
    branchIf flag d s = transfer s.pc s ↔ d = 0 ∧ flag = true := by
  cases flag with
  | false => exact iff_of_false (ne_transfer_of_xfer_false _ _ _ rfl) (by simp)
  | true =>
    calc transfer (branchTarget s.pc d) s = transfer s.pc s
      _ ↔ s.pc + d = s.pc := by rw [transfer_inj_iff, branchTarget_eq]
      _ ↔ d = 0 ∧ true = true := by simp

theorem branchIf_eq_transfer_of_xfer (flag : Bool) (d : Nibble) (s : State) (h : (branchIf flag d s).xfer = true) :
    branchIf flag d s = transfer (branchIf flag d s).state.pc s := by
  cases flag with
  | false => cases h
  | true => rfl

/-- An arm that signals a control transfer writes `PC` alone (43_control_transfer.md R195, R198). -/
theorem arm_eq_transfer_of_xfer (i : Instr) (s : State) (h : (arm i s).xfer = true) :
    arm i s = transfer (arm i s).state.pc s := by
  cases i with
  | jmp d => rfl
  | brz d => exact branchIf_eq_transfer_of_xfer s.z d s h
  | brc d => exact branchIf_eq_transfer_of_xfer s.c d s h
  | brn d => exact branchIf_eq_transfer_of_xfer s.n d s h
  | nop | lda | ldaR | staR | add | addR | sub | subR | unk => cases h

/-- The instructions that transfer to their own address, by kind. -/
theorem arm_eq_transfer_pc_iff (i : Instr) (s : State) :
    arm i s = transfer s.pc s ↔
      i = .jmp s.pc ∨ (i = .brz 0 ∧ s.z = true) ∨ (i = .brc 0 ∧ s.c = true) ∨ (i = .brn 0 ∧ s.n = true) := by
  cases i with
  | jmp d => simp [arm_jmp_eq_transfer, transfer_inj_iff]
  | brz d => exact (branchIf_eq_transfer_pc_iff s.z d s).trans (by simp)
  | brc d => exact (branchIf_eq_transfer_pc_iff s.c d s).trans (by simp)
  | brn d => exact (branchIf_eq_transfer_pc_iff s.n d s).trans (by simp)
  | nop | lda | ldaR | staR | add | addR | sub | subR | unk =>
    exact iff_of_false (ne_transfer_of_xfer_false _ _ _ rfl) (by simp)

/-- The guard's condition says of the arm that it is a transfer to the cycle's own address. -/
theorem cycle_selfTransfer_iff (s : State) :
    (cycle s).selfTransfer = true ↔ arm (fetchInstr s) s = transfer s.pc s := by
  have hguard : (cycle s).selfTransfer = true ↔
      (arm (fetchInstr s) s).xfer = true ∧ (advance s.pc (arm (fetchInstr s) s)).pc = s.pc := by
    simp [CycleResult.selfTransfer, cycle]
  rw [hguard, advance_pc]
  constructor
  · rintro ⟨hxfer, hpc⟩
    rw [if_pos hxfer] at hpc
    rw [arm_eq_transfer_of_xfer _ s hxfer, hpc]
  · intro harm
    rw [harm]
    exact ⟨rfl, rfl⟩

/-- A transfer to the cycle's own address changes nothing: `PC` is written with its own value. -/
theorem cycle_state_of_selfTransfer (s : State) (h : (cycle s).selfTransfer = true) : (cycle s).state = s :=
  calc (cycle s).state
    _ = advance s.pc (transfer s.pc s) := congrArg (advance s.pc) ((cycle_selfTransfer_iff s).mp h)
    _ = s := advance_transfer s.pc s.pc s

/-- Settles O36. -/
theorem selfTransferCases : Obligations.SelfTransferCases := fun s =>
  ⟨(cycle_selfTransfer_iff s).trans (arm_eq_transfer_pc_iff (fetchInstr s) s), cycle_state_of_selfTransfer s⟩

end Sys2Proof.Machine
end

section
/-! PROOFS. Several Steps (spec/44_system_run_control.md R213, R225): what every Step keeps of the control elements, and
that Steps from states that differ in `RUNNING` and the log alone stay so. -/

namespace Sys2Proof.Machine

/-! ### Composition and the control elements -/

theorem stepN_zero (s : State) : stepN 0 s = s := rfl

theorem stepN_succ (k : Nat) (s : State) : stepN (k + 1) s = stepN k (stepOp s) := rfl

theorem stepN_add (i j : Nat) (s : State) : stepN (i + j) s = stepN j (stepN i s) := by
  induction i generalizing s with
  | zero => rw [Nat.zero_add, stepN_zero]
  | succ i ih => rw [Nat.succ_add, stepN_succ, ih, stepN_succ]

/-- On loaded hardware a Step leaves what its cycle leaves (44_system_run_control.md R213). -/
theorem stepOp_eq_cycle (s : State) (h : s.icount ≠ 0) : stepOp s = (cycle s).state := stepOp_of_loaded s h

/-- A cycle writes neither `ICOUNT` nor `DEBUG` (40_cycle.md R148). -/
theorem cycle_keeps_control (s : State) : (cycle s).state.icount = s.icount ∧ (cycle s).state.debug = s.debug := by
  obtain ⟨-, hicount, -, hdebug⟩ := arm_keeps (fetchInstr s) s
  exact ⟨(advance_icount _ _).trans hicount, (advance_debug _ _).trans hdebug⟩

theorem stepOp_keeps_control (s : State) : (stepOp s).icount = s.icount ∧ (stepOp s).debug = s.debug := by
  by_cases hl : s.icount = 0
  · rw [stepOp_of_not_loaded s hl]
    exact ⟨rfl, rfl⟩
  · rw [stepOp_eq_cycle s hl]
    exact cycle_keeps_control s

theorem stepN_keeps_control (k : Nat) (s : State) : (stepN k s).icount = s.icount ∧ (stepN k s).debug = s.debug := by
  induction k generalizing s with
  | zero => exact ⟨rfl, rfl⟩
  | succ k ih =>
    obtain ⟨hicount, hdebug⟩ := stepOp_keeps_control s
    rw [stepN_succ, ← hicount, ← hdebug]
    exact ih (stepOp s)

@[simp] theorem stepN_icount (k : Nat) (s : State) : (stepN k s).icount = s.icount := (stepN_keeps_control k s).left

@[simp] theorem stepN_debug (k : Nat) (s : State) : (stepN k s).debug = s.debug := (stepN_keeps_control k s).right

/-! ### What a cycle does to states that are equal in what an instruction may read (44_system_run_control.md R225) -/

theorem SameArch.refl (s : State) : SameArch s s := ⟨rfl, rfl, rfl, rfl, rfl, rfl, rfl⟩

theorem SameArch.sameCpu {s t : State} (h : SameArch s t) : SameCpu s t := by
  obtain ⟨ha, hpc, hz, hn, hc, -, -⟩ := h
  exact ⟨ha, hpc, hz, hn, hc⟩

theorem SameArch.fetchInstr_eq {s t : State} (h : SameArch s t) : fetchInstr s = fetchInstr t := by
  obtain ⟨-, hpc, -, -, -, himem, hdmem⟩ := h
  simp [fetchInstr, fetchWord, hpc, himem, hdmem]

/-- Equal memories stay equal: `STA_R` stores the same word in both, and no other arm writes `DMEM`. -/
theorem arm_dmem_eq (i : Instr) (s t : State) (ha : s.a = t.a) (hdmem : s.dmem = t.dmem) :
    (arm i s).state.dmem = (arm i t).state.dmem := by
  by_cases hi : ∃ d, i = .staR d
  · obtain ⟨d, rfl⟩ := hi
    exact congrArg₂ (fun m v => Memory.write m d.toNat v) hdmem ha
  · have hother : ∀ d, i ≠ .staR d := fun d hd => hi ⟨d, hd⟩
    rw [arm_keeps_dmem i s hother, arm_keeps_dmem i t hother, hdmem]

theorem arm_sameArch (i : Instr) (s t : State) (h : SameArch s t) :
    SameArch (arm i s).state (arm i t).state ∧ (arm i s).xfer = (arm i t).xfer := by
  have ⟨ha, _, _, _, _, himem, hdmem⟩ := h
  have hslot : memRead (encode i).2 s = memRead (encode i).2 t := by rw [memRead, hdmem, memRead]
  obtain ⟨⟨ha', hpc', hz', hn', hc'⟩, hxfer⟩ := arm_sameEffect i s t h.sameCpu hslot
  obtain ⟨hsi, -⟩ := arm_keeps i s
  obtain ⟨hti, -⟩ := arm_keeps i t
  exact ⟨⟨ha', hpc', hz', hn', hc', by rw [hsi, hti, himem], arm_dmem_eq i s t ha hdmem⟩, hxfer⟩

theorem advance_sameArch (pc0 : Nibble) (e e' : Executed) (h : SameArch e.state e'.state) (hxfer : e.xfer = e'.xfer) :
    SameArch (advance pc0 e) (advance pc0 e') := by
  obtain ⟨ha, hpc, hz, hn, hc⟩ := advance_sameCpu pc0 e e' ⟨h.sameCpu, hxfer⟩
  obtain ⟨-, -, -, -, -, himem, hdmem⟩ := h
  exact ⟨ha, hpc, hz, hn, hc, by simpa using himem, by simpa using hdmem⟩

theorem cycle_sameArch (s t : State) (h : SameArch s t) :
    SameArch (cycle s).state (cycle t).state ∧ (cycle s).selfTransfer = (cycle t).selfTransfer := by
  have ⟨_, hpc, _⟩ := h
  obtain ⟨harm, hxfer⟩ := arm_sameArch (fetchInstr t) s t h
  have hstate : SameArch (cycle s).state (cycle t).state := by
    rw [cycle, cycle, hpc, h.fetchInstr_eq]
    exact advance_sameArch t.pc _ _ harm hxfer
  have hxfer' : (cycle s).xfer = (cycle t).xfer := by rw [cycle, cycle, h.fetchInstr_eq, hxfer]
  have ⟨_, hpc', _⟩ := hstate
  refine ⟨hstate, ?_⟩
  rw [CycleResult.selfTransfer, CycleResult.selfTransfer, hxfer', hpc', cycle_pc0, cycle_pc0, hpc]

theorem selfTransfer_of_sameArch {s t : State} (h : SameArch s t) : (cycle s).selfTransfer = (cycle t).selfTransfer :=
  (cycle_sameArch s t h).right

/-! ### Equal but for `RUNNING` and the log -/

/-- Equal in every element of the state but `RUNNING`, and the log aside. -/
def SameMachine (s t : State) : Prop := SameArch s t ∧ s.icount = t.icount ∧ s.debug = t.debug

theorem SameMachine.refl (s : State) : SameMachine s s := ⟨SameArch.refl s, rfl, rfl⟩

theorem sameMachine_setRunning (r : Bool) (s : State) : SameMachine (setRunning r s) s :=
  ⟨SameArch.refl s, rfl, rfl⟩

theorem sameMachine_stopRun (e : Event) (s : State) : SameMachine (stopRun e s) s := ⟨SameArch.refl s, rfl, rfl⟩

theorem outOfProgram_iff (s : State) : outOfProgram s = true ↔ s.icount.val ≤ s.pc.toNat := decide_eq_true_iff

theorem outOfProgram_eq_false_iff (s : State) : outOfProgram s = false ↔ s.pc.toNat < s.icount.val :=
  decide_eq_false_iff_not.trans Nat.not_le

theorem SameMachine.outOfProgram_eq {s t : State} (h : SameMachine s t) : outOfProgram s = outOfProgram t := by
  obtain ⟨⟨-, hpc, -⟩, hicount, -⟩ := h
  rw [outOfProgram, hicount, hpc, outOfProgram]

theorem SameMachine.selfTransfer_eq {s t : State} (h : SameMachine s t) :
    (cycle s).selfTransfer = (cycle t).selfTransfer := selfTransfer_of_sameArch h.left

theorem stepOp_sameMachine (s t : State) (h : SameMachine s t) : SameMachine (stepOp s) (stepOp t) := by
  have ⟨harch, hicount, hdebug⟩ := h
  obtain ⟨hsi, hsd⟩ := stepOp_keeps_control s
  obtain ⟨hti, htd⟩ := stepOp_keeps_control t
  refine ⟨?_, by rw [hsi, hti, hicount], by rw [hsd, htd, hdebug]⟩
  by_cases hl : t.icount = 0
  · rwa [stepOp_of_not_loaded s (hicount.trans hl), stepOp_of_not_loaded t hl]
  · rw [stepOp_eq_cycle s (hicount ▸ hl), stepOp_eq_cycle t hl]
    exact (cycle_sameArch s t harch).left

theorem stepN_sameMachine (k : Nat) (s t : State) (h : SameMachine s t) : SameMachine (stepN k s) (stepN k t) := by
  induction k generalizing s t with
  | zero => exact h
  | succ k ih => exact ih _ _ (stepOp_sameMachine s t h)

/-- The Steps of one state visit states with the same control elements, so equality of the rest is enough. -/
theorem sameMachine_of_stepN_sameArch (i j : Nat) (s : State) (h : SameArch (stepN i s) (stepN j s)) :
    SameMachine (stepN i s) (stepN j s) := by
  refine ⟨h, ?_, ?_⟩
  · rw [stepN_icount, stepN_icount]
  · rw [stepN_debug, stepN_debug]

end Sys2Proof.Machine
end

section
/-! PROOFS. The heads of Run's loop (spec/44_system_run_control.md R214 to R219): what happens at one head, and that a
Run returns exactly what the first head that does not go on leaves. -/

namespace Sys2Proof.Machine

/-! ### One head of the loop (44_system_run_control.md R214)

The loop runs with `RUNNING` 1, which no test reads and no cycle writes. So a head is spoken of by the state that the
Steps leave there, whose `RUNNING` is the host's. -/

/-- The loop executes the cycle and goes on. -/
def Continues (b : Option Nat) (n : Nat) (s : State) : Prop :=
  outOfProgram s = false ∧ b ≠ some n ∧ (cycle s).selfTransfer = false

/-- The loop returns: by the range test, the budget or the guard, in this order. The guard fires after the cycle, but
a self-transfer leaves the state as it was. -/
inductive Stops (b : Option Nat) (n : Nat) (s : State) : RunOutcome → State → Prop where
  | ended (hout : outOfProgram s = true) : Stops b n s .ended (stopRun (.programEnd s.pc) s)
  | budgetExceeded (hin : outOfProgram s = false) (hb : b = some n) :
      Stops b n s .budgetExceeded (stopRun (.budgetExceeded s.pc n) s)
  | selfLoop (hin : outOfProgram s = false) (hb : b ≠ some n) (hself : (cycle s).selfTransfer = true) :
      Stops b n s .selfLoop (clearDebug (stopRun (.selfLoop s.pc) s))

theorem continues_or_stops (b : Option Nat) (n : Nat) (s : State) : Continues b n s ∨ ∃ o t, Stops b n s o t := by
  obtain ⟨hout, -⟩ | ⟨hin, hb, -⟩ | ⟨hin, hb, hself, -⟩ | ⟨hin, hb, hself, -⟩ := runTurn_cases b n s
  · exact .inr ⟨_, _, .ended hout⟩
  · exact .inr ⟨_, _, .budgetExceeded hin hb⟩
  · exact .inr ⟨_, _, .selfLoop hin hb hself⟩
  · exact .inl ⟨hin, hb, hself⟩

theorem Stops.not_continues {b : Option Nat} {n : Nat} {s t : State} {o : RunOutcome} (h : Stops b n s o t) :
    ¬ Continues b n s := by
  rintro ⟨hin, hb, hself⟩
  cases h with
  | ended hout => simp [hin] at hout
  | budgetExceeded _ hspent => exact hb hspent
  | selfLoop _ _ hguard => simp [hself] at hguard

/-! ### A turn does not depend on `RUNNING` (44_system_run_control.md R219) -/

theorem branchIf_setRunning (flag : Bool) (d : Nibble) (r : Bool) (s : State) :
    branchIf flag d (setRunning r s) = ⟨setRunning r (branchIf flag d s).state, (branchIf flag d s).xfer⟩ := by
  cases flag <;> rfl

theorem arm_setRunning (i : Instr) (r : Bool) (s : State) :
    arm i (setRunning r s) = ⟨setRunning r (arm i s).state, (arm i s).xfer⟩ := by
  cases i with
  | brz d | brc d | brn d => exact branchIf_setRunning _ d r s
  | nop | lda | ldaR | staR | add | addR | sub | subR | jmp | unk => rfl

theorem advance_setRunning (pc0 : Nibble) (r : Bool) (e : Executed) :
    advance pc0 ⟨setRunning r e.state, e.xfer⟩ = setRunning r (advance pc0 e) := by
  obtain ⟨t, xfer⟩ := e
  cases xfer <;> rfl

/-- No cycle reads or writes `RUNNING`. -/
@[simp] theorem cycle_state_setRunning (r : Bool) (s : State) :
    (cycle (setRunning r s)).state = setRunning r (cycle s).state := by
  have harm : arm (fetchInstr (setRunning r s)) (setRunning r s) = _ := arm_setRunning (fetchInstr s) r s
  rw [cycle, harm]
  exact advance_setRunning s.pc r _

@[simp] theorem outOfProgram_setRunning (r : Bool) (s : State) : outOfProgram (setRunning r s) = outOfProgram s := rfl

@[simp] theorem selfTransfer_setRunning (r : Bool) (s : State) :
    (cycle (setRunning r s)).selfTransfer = (cycle s).selfTransfer := (sameMachine_setRunning r s).selfTransfer_eq

@[simp] theorem stopRun_setRunning (e : Event) (r : Bool) (s : State) : stopRun e (setRunning r s) = stopRun e s := rfl

theorem runTurn_of_continues (b : Option Nat) (n : Nat) (r : Bool) (s : State) (h : Continues b n s) :
    runTurn b n (setRunning r s) = .goesOn (n + 1) (setRunning r (cycle s).state) := by
  obtain ⟨hin, hb, hself⟩ := h
  simp [runTurn, hin, hb, hself]

theorem runTurn_of_stops (b : Option Nat) (n : Nat) (r : Bool) (s t : State) (o : RunOutcome) (h : Stops b n s o t) :
    runTurn b n (setRunning r s) = .returns o t := by
  cases h with
  | ended hout => simp [runTurn, hout]
  | budgetExceeded hin hb => simp [runTurn, hin, hb]
  | selfLoop hin hb hself => simp [runTurn, hin, hb, hself, cycle_state_of_selfTransfer s hself]

/-- Every return leaves `RUNNING` 0 and what an instruction may read as it was at the head. -/
theorem Stops.leaves {b : Option Nat} {n : Nat} {s t : State} {o : RunOutcome} (h : Stops b n s o t) :
    SameArch t s ∧ t.icount = s.icount ∧ t.running = false := by
  cases h <;> exact ⟨SameArch.refl s, rfl, rfl⟩

/-! ### The first head that does not go on -/

/-- Of a loop that has executed `n` cycles at `s`: the next `k` heads go on, and the one after them returns `o` and
leaves `t`. -/
def StopsAtHead (b : Option Nat) (n k : Nat) (s : State) (o : RunOutcome) (t : State) : Prop :=
  (∀ j, j < k → Continues b (n + j) (stepN j s)) ∧ Stops b (n + k) (stepN k s) o t

theorem stopsAtHead_zero_iff (b : Option Nat) (n : Nat) (s t : State) (o : RunOutcome) :
    StopsAtHead b n 0 s o t ↔ Stops b n s o t := by
  simp [StopsAtHead, stepN_zero]

theorem stopsAtHead_succ_iff (b : Option Nat) (n k : Nat) (s t : State) (o : RunOutcome) :
    StopsAtHead b n (k + 1) s o t ↔ Continues b n s ∧ StopsAtHead b (n + 1) k (stepOp s) o t := by
  simp only [StopsAtHead, Nat.forall_lt_succ_left, stepN_succ, stepN_zero, Nat.add_zero, and_assoc, Nat.add_assoc,
    Nat.add_comm 1]

theorem runLoop_of_stopsAtHead (b : Option Nat) (f n k : Nat) (s t : State) (o : RunOutcome) (hl : s.icount ≠ 0)
    (hk : k < f) (h : StopsAtHead b n k s o t) : runLoop b f n (setRunning true s) = some (o, t) := by
  obtain ⟨f, rfl⟩ : ∃ g, f = g + 1 := ⟨f - 1, by omega⟩
  induction k generalizing f n s with
  | zero =>
    have hstop : Stops b n s o t := (stopsAtHead_zero_iff b n s t o).mp h
    rw [runLoop_succ, runTurn_of_stops b n true s t o hstop]
  | succ k ih =>
    obtain ⟨hgo, hrest⟩ := (stopsAtHead_succ_iff b n k s t o).mp h
    obtain ⟨hicount, -⟩ := stepOp_keeps_control s
    obtain ⟨f, rfl⟩ : ∃ g, f = g + 1 := ⟨f - 1, by omega⟩
    rw [runLoop_succ, runTurn_of_continues b n true s hgo, ← stepOp_eq_cycle s hl]
    exact ih (n + 1) (stepOp s) (by rwa [hicount]) hrest f (by omega)

theorem stopsAtHead_of_runLoop (b : Option Nat) (f n : Nat) (s t : State) (o : RunOutcome) (hl : s.icount ≠ 0)
    (hr : runLoop b f n (setRunning true s) = some (o, t)) : ∃ k, StopsAtHead b n k s o t := by
  induction f generalizing n s with
  | zero => simp [runLoop_zero] at hr
  | succ f ih =>
    rw [runLoop_succ] at hr
    obtain hgo | ⟨o', t', hstop⟩ := continues_or_stops b n s
    · obtain ⟨hicount, -⟩ := stepOp_keeps_control s
      rw [runTurn_of_continues b n true s hgo, ← stepOp_eq_cycle s hl] at hr
      obtain ⟨k, hrest⟩ := ih (n + 1) (stepOp s) (by rwa [hicount]) hr
      exact ⟨k + 1, (stopsAtHead_succ_iff b n k s t o).mpr ⟨hgo, hrest⟩⟩
    · rw [runTurn_of_stops b n true s t' o' hstop] at hr
      obtain ⟨rfl, rfl⟩ : o' = o ∧ t' = t := by simpa using hr
      exact ⟨0, (stopsAtHead_zero_iff b n s t' o').mpr hstop⟩

/-- A loop some head of which does not go on stops at the first such head. -/
theorem exists_stopsAtHead (b : Option Nat) (n m : Nat) (s : State) (h : ¬ Continues b (n + m) (stepN m s)) :
    ∃ k, k ≤ m ∧ ∃ o t, StopsAtHead b n k s o t := by
  classical
  have hex : ∃ k, ¬ Continues b (n + k) (stepN k s) := ⟨m, h⟩
  have hbefore : ∀ j, j < Nat.find hex → Continues b (n + j) (stepN j s) := fun j hj => not_not.mp (Nat.find_min hex hj)
  obtain ⟨o, t, hstop⟩ := (continues_or_stops b _ _).resolve_left (Nat.find_spec hex)
  exact ⟨Nat.find hex, Nat.find_min' hex h, o, t, hbefore, hstop⟩

/-- Heads that go on may be put before a loop. -/
theorem stopsAtHead_add (b : Option Nat) (n i k : Nat) (s t : State) (o : RunOutcome)
    (hgo : ∀ j, j < i → Continues b (n + j) (stepN j s)) (h : StopsAtHead b (n + i) k (stepN i s) o t) :
    StopsAtHead b n (i + k) s o t := by
  obtain ⟨hbefore, hstop⟩ := h
  rw [← stepN_add, Nat.add_assoc] at hstop
  refine ⟨fun j hj => ?_, hstop⟩
  obtain hlt | ⟨j, rfl⟩ := (Nat.lt_or_ge j i).imp_right Nat.exists_eq_add_of_le
  · exact hgo j hlt
  · rw [stepN_add, ← Nat.add_assoc]
    exact hbefore j (by omega)

/-! ### Heads that differ in `RUNNING` and the log alone, and in how the budget is counted -/

theorem Continues.congr {b b' : Option Nat} {n n' : Nat} {s s' : State} (h : Continues b n s) (hs : SameMachine s s')
    (hb : b' = some n' ↔ b = some n) : Continues b' n' s' := by
  obtain ⟨hin, hne, hself⟩ := h
  exact ⟨hs.outOfProgram_eq ▸ hin, fun h' => hne (hb.mp h'), hs.selfTransfer_eq ▸ hself⟩

theorem Stops.congr {b b' : Option Nat} {n n' : Nat} {s s' t : State} {o : RunOutcome} (h : Stops b n s o t)
    (hs : SameMachine s s') (hb : b' = some n' ↔ b = some n) :
    ∃ t', Stops b' n' s' o t' ∧ SameMachine t t' := by
  have ⟨harch, hicount, hdebug⟩ := hs
  cases h with
  | ended hout => exact ⟨_, .ended (hs.outOfProgram_eq ▸ hout), harch, hicount, hdebug⟩
  | budgetExceeded hin heq =>
    exact ⟨_, .budgetExceeded (hs.outOfProgram_eq ▸ hin) (hb.mpr heq), harch, hicount, hdebug⟩
  | selfLoop hin hne hself =>
    exact ⟨_, .selfLoop (hs.outOfProgram_eq ▸ hin) (fun h' => hne (hb.mp h')) (hs.selfTransfer_eq ▸ hself),
      harch, hicount, rfl⟩

theorem StopsAtHead.congr {b b' : Option Nat} {n n' k : Nat} {s s' t : State} {o : RunOutcome}
    (h : StopsAtHead b n k s o t) (hs : SameMachine s s') (hb : ∀ j, b' = some (n' + j) ↔ b = some (n + j)) :
    ∃ t', StopsAtHead b' n' k s' o t' ∧ SameMachine t t' := by
  obtain ⟨hbefore, hstop⟩ := h
  obtain ⟨t', hstop', ht⟩ := hstop.congr (stepN_sameMachine k s s' hs) (hb k)
  exact ⟨t', ⟨fun j hj => (hbefore j hj).congr (stepN_sameMachine j s s' hs) (hb j), hstop'⟩, ht⟩

/-! ### What a Run returns -/

theorem runFuel_of_loaded (b : Option Nat) (f : Nat) (s : State) (h : s.icount ≠ 0) :
    runFuel b f s = runLoop b f 0 (setRunning true s) := if_pos ((loaded_iff s).mpr h)

theorem runFuel_of_not_loaded (b : Option Nat) (f : Nat) (s : State) (h : s.icount = 0) :
    runFuel b f s = some (.notLoaded, s) := if_neg fun hl => (loaded_iff s).mp hl h

theorem runFuel_of_stopsAtHead (b : Option Nat) (f k : Nat) (s t : State) (o : RunOutcome) (hl : s.icount ≠ 0)
    (hk : k < f) (h : StopsAtHead b 0 k s o t) : runFuel b f s = some (o, t) := by
  rw [runFuel_of_loaded b f s hl]
  exact runLoop_of_stopsAtHead b f 0 k s t o hl hk h

/-- A Run that stops at its first head returns within one turn. -/
theorem runFuel_one_of_stops (b : Option Nat) (s t : State) (o : RunOutcome) (hl : s.icount ≠ 0)
    (h : Stops b 0 s o t) : runFuel b 1 s = some (o, t) :=
  runFuel_of_stopsAtHead b 1 0 s t o hl Nat.one_pos ((stopsAtHead_zero_iff b 0 s t o).mpr h)

/-- On loaded hardware a Run returns what the first head that does not go on leaves. -/
theorem runReturns_iff_of_loaded (b : Option Nat) (s t : State) (o : RunOutcome) (hl : s.icount ≠ 0) :
    RunReturns b s o t ↔ ∃ k, StopsAtHead b 0 k s o t := by
  constructor
  · rintro ⟨f, hr⟩
    rw [runFuel_of_loaded b f s hl] at hr
    exact stopsAtHead_of_runLoop b f 0 s t o hl hr
  · rintro ⟨k, h⟩
    exact ⟨k + 1, runFuel_of_stopsAtHead b (k + 1) k s t o hl k.lt_succ_self h⟩

/-- Where nothing is loaded a Run returns at once (44_system_run_control.md R212). -/
theorem runReturns_iff_of_not_loaded (b : Option Nat) (s t : State) (o : RunOutcome) (h : s.icount = 0) :
    RunReturns b s o t ↔ o = .notLoaded ∧ t = s := by
  simp [RunReturns, runFuel_of_not_loaded b _ s h, eq_comm]

/-- The two ways a Run returns. -/
theorem runReturns_cases (b : Option Nat) (s t : State) (o : RunOutcome) (h : RunReturns b s o t) :
    (s.icount = 0 ∧ o = .notLoaded ∧ t = s) ∨ (s.icount ≠ 0 ∧ ∃ k, StopsAtHead b 0 k s o t) := by
  by_cases hl : s.icount = 0
  · exact .inl ⟨hl, (runReturns_iff_of_not_loaded b s t o hl).mp h⟩
  · exact .inr ⟨hl, (runReturns_iff_of_loaded b s t o hl).mp h⟩

/-- Any outcome but `NotLoaded` comes from a head of the loop, on loaded hardware. -/
theorem stopsAtHead_of_runReturns (b : Option Nat) (s t : State) (o : RunOutcome) (h : RunReturns b s o t)
    (ho : o ≠ .notLoaded) : s.icount ≠ 0 ∧ ∃ k, StopsAtHead b 0 k s o t :=
  (runReturns_cases b s t o h).resolve_left fun ⟨_, hnot, _⟩ => ho hnot

end Sys2Proof.Machine
end

section
/-! PROOFS. Run control (spec/44_system_run_control.md R212 to R225): where a Run stops, what it leaves, and what the
next Run does; and the host's Reset and DebugOn. -/

namespace Sys2Proof.Machine

/-! ### Unloaded hardware, Reset and DebugOn (44_system_run_control.md R212, R220) -/

/-- Settles O6. -/
theorem notLoadedChangesNothing : Obligations.NotLoadedChangesNothing := fun s hl =>
  ⟨(step_eq_next_iff s s).mpr (stepOp_of_not_loaded s hl).symm, fun b o t => runReturns_iff_of_not_loaded b s t o hl⟩

/-- Settles O46: each is one record update. -/
theorem resetClearsCpuStateOnly : Obligations.ResetClearsCpuStateOnly := fun _ => ⟨rfl, rfl⟩

/-! ### What a Run leaves (44_system_run_control.md R215 to R218) -/

/-- Settles O37: the Steps before the stop keep `ICOUNT` and `DEBUG`, and a return writes the control flags and the
log. -/
theorem runOutcomeStates : Obligations.RunOutcomeStates := by
  intro b s t o h
  obtain ⟨hl, rfl, rfl⟩ | ⟨-, k, -, hstop⟩ := runReturns_cases b s t o h
  · exact ⟨hl, rfl⟩
  · cases hstop with
    | ended hout => exact ⟨(outOfProgram_iff _).mp hout, rfl, stepN_debug k s, List.getLast?_concat⟩
    | budgetExceeded hin hb =>
      exact ⟨(outOfProgram_eq_false_iff _).mp hin, rfl, stepN_debug k s, _, hb, List.getLast?_concat⟩
    | selfLoop hin _ hself =>
      have hsame : SameArch (clearDebug (stopRun (.selfLoop (stepN k s).pc) (stepN k s))) (stepN k s) := SameArch.refl _
      exact ⟨(outOfProgram_eq_false_iff _).mp hin, rfl, rfl, (selfTransfer_of_sameArch hsame).trans hself,
        List.getLast?_concat⟩

/-- Settles O38: the head with `b` cycles executed does not go on. -/
theorem budgetedRunReturns : Obligations.BudgetedRunReturns := by
  intro b s
  by_cases hl : s.icount = 0
  · exact ⟨_, _, runFuel_of_not_loaded (some b) (b + 1) s hl⟩
  · have hspent : ¬ Continues (some b) (0 + b) (stepN b s) := fun ⟨_, hb, _⟩ => hb (by rw [Nat.zero_add])
    obtain ⟨k, hk, o, t, hstop⟩ := exists_stopsAtHead (some b) 0 b s hspent
    exact ⟨o, t, runFuel_of_stopsAtHead (some b) (b + 1) k s t o hl (by omega) hstop⟩

/-- A Run with a budget of `m` stops at head `m` at the latest. -/
theorem StopsAtHead.le_budget {k m : Nat} {s t : State} {o : RunOutcome} (h : StopsAtHead (some m) 0 k s o t) :
    k ≤ m := by
  obtain ⟨hbefore, -⟩ := h
  by_contra hlt
  obtain ⟨-, hb, -⟩ := hbefore m (by omega)
  exact hb (by rw [Nat.zero_add])

/-- Settles O39. -/
theorem runIsStepsWithinBudget : Obligations.RunIsStepsWithinBudget := by
  intro b s t o h
  obtain ⟨-, rfl, rfl⟩ | ⟨-, k, hk⟩ := runReturns_cases b s t o h
  · exact ⟨0, SameArch.refl t, fun m _ => m.zero_le, .inr (by decide)⟩
  · have ⟨_, hstop⟩ := hk
    obtain ⟨harch, -⟩ := hstop.leaves
    refine ⟨k, harch, fun m hm => StopsAtHead.le_budget (hm ▸ hk), ?_⟩
    cases hstop with
    | ended | selfLoop => exact .inr (by decide)
    | budgetExceeded _ hb => exact .inl (by rw [hb, Nat.zero_add])

/-- Settles O41: the Steps keep `ICOUNT`, and no address is outside a program of 16 instructions. -/
theorem sixteenInstructionsNeverEnd : Obligations.SixteenInstructionsNeverEnd := by
  intro b s t hcount h
  obtain ⟨-, k, -, hstop⟩ := stopsAtHead_of_runReturns b s t .ended h (by decide)
  cases hstop with
  | ended hout =>
    have hge : 16 ≤ (stepN k s).pc.toNat := by simpa [outOfProgram_iff, hcount] using hout
    have hlt : (stepN k s).pc.toNat < 16 := (stepN k s).pc.isLt
    omega

/-! ### Where a Run stops (44_system_run_control.md R214, R222, R225) -/

/-- The heads before the `k`-th go on when they are inside the program, transfer elsewhere, and the budget is not below
`k`. -/
theorem continues_before (b : Option Nat) (s : State) (k : Nat) (hb : ∀ m, b = some m → k ≤ m)
    (h : ∀ j, j < k → outOfProgram (stepN j s) = false ∧ (cycle (stepN j s)).selfTransfer = false) :
    ∀ j, j < k → Continues b (0 + j) (stepN j s) := by
  intro j hj
  obtain ⟨hin, hself⟩ := h j hj
  refine ⟨hin, fun hspent => ?_, hself⟩
  have hle : k ≤ 0 + j := hb _ hspent
  omega

/-- Settles O40. -/
theorem runEndsAtTheFirstHeadOutside : Obligations.RunEndsAtTheFirstHeadOutside := by
  intro s k hl hbefore hout
  have hstop : Stops none (0 + k) (stepN k s) .ended _ := .ended hout
  obtain ⟨harch, -⟩ := hstop.leaves
  have hgo := continues_before none s k (fun _ hm => nomatch hm) hbefore
  exact ⟨_, (runReturns_iff_of_loaded none s _ .ended hl).mpr ⟨k, hgo, hstop⟩, harch⟩

/-- Settles O60. -/
theorem runStopsAtTheFirstSelfTransfer : Obligations.RunStopsAtTheFirstSelfTransfer := by
  intro b s k hl hb hbefore hin hself
  have hbudget : b ≠ some (0 + k) := fun hspent => by
    have hlt : k < 0 + k := hb _ hspent
    omega
  have hstop : Stops b (0 + k) (stepN k s) .selfLoop _ := .selfLoop hin hbudget hself
  obtain ⟨harch, -, hrunning⟩ := hstop.leaves
  have hgo := continues_before b s k (fun m hm => Nat.le_of_lt (hb m hm)) hbefore
  exact ⟨_, (runReturns_iff_of_loaded b s _ .selfLoop hl).mpr ⟨k, hgo, hstop⟩, harch, hrunning, rfl⟩

/-- A loop that revisits at head `j` the state of head `i` goes on at every head: a head from `j` on repeats the one
`j - i` before it. -/
theorem continues_of_revisit (s : State) (i j : Nat) (hij : i < j) (hsame : SameArch (stepN i s) (stepN j s))
    (hbefore : ∀ k, k < j → Continues none (0 + k) (stepN k s)) (k : Nat) : Continues none (0 + k) (stepN k s) := by
  induction k using Nat.strong_induction_on with
  | _ k ih =>
    obtain hlt | ⟨d, rfl⟩ := (Nat.lt_or_ge k j).imp_right Nat.exists_eq_add_of_le
    · exact hbefore k hlt
    · have hearlier : Continues none (0 + (i + d)) (stepN (i + d) s) := ih (i + d) (by omega)
      rw [stepN_add] at hearlier ⊢
      exact hearlier.congr (stepN_sameMachine d _ _ (sameMachine_of_stepN_sameArch i j s hsame)) (by simp)

/-- Settles O44. -/
theorem revisitedStateDiverges : Obligations.RevisitedStateDiverges := by
  intro s i j hl hij hsame hbefore fuel
  have hgo := continues_before none s j (fun _ hm => nomatch hm) hbefore
  rw [Option.eq_none_iff_forall_ne_some]
  rintro ⟨o, t⟩ hr
  obtain ⟨k, -, hstop⟩ := (runReturns_iff_of_loaded none s t o hl).mp ⟨fuel, hr⟩
  exact hstop.not_continues (continues_of_revisit s i j hij hsame hgo k)

/-! ### A further Run (44_system_run_control.md R223) -/

/-- A Run that returns from its loop leaves the hardware loaded. -/
theorem runReturns_leaves_loaded (b : Option Nat) (s t : State) (o : RunOutcome) (h : RunReturns b s o t)
    (ho : o ≠ .notLoaded) : t.icount ≠ 0 := by
  obtain ⟨hl, k, -, hstop⟩ := stopsAtHead_of_runReturns b s t o h ho
  obtain ⟨-, hicount, -⟩ := hstop.leaves
  rwa [hicount, stepN_icount]

/-- On hardware whose `RUNNING` is 0 a return adds its own entry alone. -/
theorem stopRun_eq_of_not_running (e : Event) (s : State) (h : s.running = false) :
    stopRun e s = { s with log := s.log ++ [e] } := by
  rw [stopRun, setRunning, ← h]
  rfl

theorem clearDebug_eq_self (s : State) (h : s.debug = false) : clearDebug s = s := by
  rw [clearDebug, ← h]

/-- Settles O42: the state that each outcome leaves (`runOutcomeStates`) passes or fails the tests of the next Run's
first head. -/
theorem stoppedRunsResume : Obligations.StoppedRunsResume := by
  refine ⟨fun b b' s t h => ?ended, fun b b' s t h hb' => ?selfLoop, fun b b' s t h hb' => ?budget,
    fun b s t o h ho => ?step, fun b b' s t h => ?notLoaded⟩
  case ended =>
    obtain ⟨hout, hrunning, -⟩ := runOutcomeStates b s t .ended h
    rw [← stopRun_eq_of_not_running _ t hrunning]
    exact runFuel_one_of_stops b' t _ .ended (runReturns_leaves_loaded b s t _ h (by decide))
      (.ended ((outOfProgram_iff t).mpr hout))
  case selfLoop =>
    obtain ⟨hin, hrunning, hdebug, hself, -⟩ := runOutcomeStates b s t .selfLoop h
    rw [← stopRun_eq_of_not_running _ t hrunning, ← clearDebug_eq_self (stopRun _ t) hdebug]
    exact runFuel_one_of_stops b' t _ .selfLoop (runReturns_leaves_loaded b s t _ h (by decide))
      (.selfLoop ((outOfProgram_eq_false_iff t).mpr hin) hb' hself)
  case budget =>
    obtain ⟨hlt, -⟩ := runOutcomeStates b s t .budgetExceeded h
    have hin : outOfProgram t = false := (outOfProgram_eq_false_iff t).mpr hlt
    by_cases hself : (cycle t).selfTransfer = true
    · have hstop : Stops b' 0 t .selfLoop _ := .selfLoop hin hb' hself
      obtain ⟨harch, -⟩ := hstop.leaves
      rw [cycle_state_of_selfTransfer t hself]
      exact ⟨_, harch, .inr (runTurn_of_stops b' 0 true t _ .selfLoop hstop)⟩
    · have hgo : Continues b' 0 t := ⟨hin, hb', by simpa using hself⟩
      exact ⟨setRunning true (cycle t).state, SameArch.refl _, .inl (runTurn_of_continues b' 0 true t hgo)⟩
  case step => exact step_of_loaded t (runReturns_leaves_loaded b s t o h ho)
  case notLoaded =>
    obtain ⟨hl, rfl⟩ := runOutcomeStates b s t .notLoaded h
    obtain ⟨hstep, -⟩ := notLoadedChangesNothing t hl
    exact ⟨runFuel_of_not_loaded b' 1 t hl, hstep⟩

/-- A Run stopped by a budget of `m` stops at head `m`, and leaves what the Steps leave but for `RUNNING`
and the log. -/
theorem StopsAtHead.budgetExceeded_leaves {k m : Nat} {s t : State}
    (h : StopsAtHead (some m) 0 k s .budgetExceeded t) : m = k ∧ SameMachine t (stepN k s) := by
  obtain ⟨-, hstop⟩ := h
  cases hstop with
  | budgetExceeded _ hb => exact ⟨by simpa using hb, sameMachine_stopRun _ _⟩

theorem StopsAtHead.running {b : Option Nat} {n k : Nat} {s t : State} {o : RunOutcome}
    (h : StopsAtHead b n k s o t) : t.running = false := by
  obtain ⟨-, hstop⟩ := h
  obtain ⟨-, -, hrunning⟩ := hstop.leaves
  exact hrunning

/-- Settles O43: the heads of the first Run go on under the larger budget, and those of the second Run repeat after
them with the budget counted from `m`. -/
theorem budgetsAdd : Obligations.BudgetsAdd := by
  intro m k s t u o hfirst hsecond
  obtain ⟨hls, i, hfirstRun⟩ := stopsAtHead_of_runReturns _ s t _ hfirst (by decide)
  have hlt : t.icount ≠ 0 := runReturns_leaves_loaded _ s t _ hfirst (by decide)
  obtain ⟨j, hsecondRun⟩ := (runReturns_iff_of_loaded _ t u o hlt).mp hsecond
  obtain ⟨rfl, hsame⟩ := hfirstRun.budgetExceeded_leaves
  have ⟨hbefore, _⟩ := hfirstRun
  have hgo : ∀ i, i < m → Continues (some (m + k)) (0 + i) (stepN i s) := fun i hi =>
    (hbefore i hi).congr (SameMachine.refl _) (by rw [Option.some_inj, Option.some_inj]; omega)
  obtain ⟨u', hrest, harch, hicount, hdebug⟩ :=
    hsecondRun.congr (b' := some (m + k)) (n' := 0 + m) hsame (fun i => by simp)
  have hrunning : u.running = u'.running := by rw [hsecondRun.running, hrest.running]
  exact ⟨u', (runReturns_iff_of_loaded _ s u' o hls).mpr ⟨m + j, stopsAtHead_add _ 0 m j s u' o hgo hrest⟩,
    harch, hicount, hrunning, hdebug⟩

end Sys2Proof.Machine
end
